-- ==== Sys2Proof/Word.lean ====
section
/-!
DEFINITION. The bit vectors of the block: the widths `00_scope.md` R7 names. A register keeps its bits; whether they are
read as a signed number (`BitVec.toInt`) or an unsigned one (`BitVec.toNat`) is said where they are read.
-/

namespace Sys2Proof

/-- `u8`, eight bits (R7, R160). -/
abbrev Byte := BitVec 8

/-- `u16` or `i16`, sixteen bits (R7, R160). -/
abbrev Half := BitVec 16

/-- `u32` or `i32`, or a word of the H port, thirty-two bits (R7, R160). -/
abbrev Word := BitVec 32

/-- `f32`, the 32-bit pattern of a binary32 value (R7, R81, R170). -/
abbrev F32 := BitVec 32

end Sys2Proof
end

