-- ==== Sys2Proof/Syntax.lean ====
section
/-!
DEFINITION. The operations of the block, one constructor per row of spec/opcode_table.json (`30_encoding.md` R60), and the
enumerations their operands name.
-/

namespace Sys2Proof

/-- The eight operations (R60). `idx` and `sub` are the header's fields (R66); what a `sub` names is said in
`Machine/Operands.lean`. Bits that R77 calls ignored are no operands. -/
inductive Instr where
  /-- `FRAME` (R91): the bus identifier and the four values R64 forms from the eight bytes. -/
  | frame (id : Nat) (rawAngle rawCv rawGiven : Half) (rawHall : Byte)
  /-- `PID.CFG` (R120); `sub` is the mode. -/
  | pidCfg (idx sub : Byte) (maxOutput integralLimit p i d : F32)
  /-- `PID.GAINS` (R121). -/
  | pidGains (idx : Byte) (p i d : F32)
  /-- `PID.LIM` (R122). -/
  | pidLim (idx : Byte) (maxError deadband : F32)
  /-- `PID.CALC` (R123); `sub` is the error domain. -/
  | pidCalc (idx sub : Byte) (measurement setpoint : F32)
  /-- `PID.CALCFB` (R140); `sub` is the error domain. -/
  | pidCalcFb (idx sub : Byte) (measurement setpoint feedback : F32)
  /-- `PID.RD` (R142); `sub` is the register select. -/
  | pidRd (idx sub : Byte)
  /-- `MS.RD` (R100); `idx` is the slot. -/
  | msRd (idx : Byte)
  deriving DecidableEq, Repr

/-- The mode of a controller (`10_state.md` R25, `30_encoding.md` R69). -/
inductive Mode where
  | position
  | incremental
  deriving DecidableEq, Repr

/-- The error domain of a computation (`30_encoding.md` R69). -/
inductive ErrorDomain where
  | none
  | rotary12bit
  | degrees
  deriving DecidableEq, Repr

/-- The twenty registers of a controller, in the order of their word numbers (`10_state.md` R23). -/
inductive PidReg where
  | p | i | d | maxOut | intLim | maxErr | deadband | mode
  | set0 | set1 | set2 | get0 | get1 | get2 | err0 | err1 | err2
  | iOut | posOut | incOut
  deriving DecidableEq, Repr

end Sys2Proof
end

