-- ==== Sys2Proof/Decode.lean ====
section
/-!
DEFINITION. From the bits on a port to an operation, and back (`30_encoding.md` R61 to R69, R73, R77). The decoder is total:
a frame always decodes, and a request with a reserved operation code is rejected by name. The encoder stands after it.
-/

namespace Sys2Proof

/-- An operation as a port presents it (R61, R65): a frame with its identifier on the T port, a request on the H port. -/
inductive PortOp where
  | t (id : Nat) (data : BitVec 64)
  | h (req : BitVec 192)
  deriving DecidableEq, Repr

/-- What the decoder makes of the bits: an operation, or a rejection by name. -/
inductive Decoded where
  | instr (i : Instr)
  /-- The operation code is reserved (R73): codes 0 and 8 to 15. The step ignores the request. -/
  | reservedOpcode (op : BitVec 4)
  deriving DecidableEq, Repr

/-- The 32-bit word number `k` of a request (R66): `w0` is the most significant, `w5` the least. -/
def reqWord (req : BitVec 192) (k : Nat) : Word := req.extractLsb' (160 - 32 * k) 32

/-- The `op` field, `w0[31:28]` (R66). -/
def opField (w0 : Word) : BitVec 4 := w0.extractLsb' 28 4

/-- The `idx` field, `w0[27:20]` (R66). -/
def idxField (w0 : Word) : Byte := w0.extractLsb' 20 8

/-- The `sub` field, `w0[19:12]` (R66). -/
def subField (w0 : Word) : Byte := w0.extractLsb' 12 8

/-- The four values of a frame, and no others (R62, R64): byte 7, `t_data[7:0]`, is not read. -/
def decodeFrame (id : Nat) (data : BitVec 64) : Instr :=
  .frame id (data.extractLsb' 48 16) (data.extractLsb' 32 16) (data.extractLsb' 16 16) (data.extractLsb' 8 8)

/-- The operation of a request (R67), with the operand words of R68. -/
def decodeRequest (req : BitVec 192) : Decoded :=
  let w := reqWord req
  let idx := idxField (w 0)
  let sub := subField (w 0)
  match (opField (w 0)).toNat with
  | 1 => .instr (.pidCfg idx sub (w 1) (w 2) (w 3) (w 4) (w 5))
  | 2 => .instr (.pidGains idx (w 1) (w 2) (w 3))
  | 3 => .instr (.pidLim idx (w 1) (w 2))
  | 4 => .instr (.pidCalc idx sub (w 1) (w 2))
  | 5 => .instr (.pidCalcFb idx sub (w 1) (w 2) (w 3))
  | 6 => .instr (.pidRd idx sub)
  | 7 => .instr (.msRd idx)
  | _ => .reservedOpcode (opField (w 0))

/-- The decoder, on either port: every transfer on the T port is a `FRAME` (R61). -/
def decode : PortOp → Decoded
  | .t id data => .instr (decodeFrame id data)
  | .h req => decodeRequest req

/-- Six words as a request, `w0` most significant (R66). -/
def packRequest (w0 w1 w2 w3 w4 w5 : Word) : BitVec 192 := w0 ++ w1 ++ w2 ++ w3 ++ w4 ++ w5

/-- A header word (R66); "software should write 0" in the ignored bits. -/
def header (op : BitVec 4) (idx sub : Byte) : Word := op ++ idx ++ sub ++ 0#12

/-- The bits of an operation on its port, with 0 in every ignored bit (R62 to R69). -/
def encode : Instr → PortOp
  | .frame id rawAngle rawCv rawGiven rawHall => .t id (rawAngle ++ rawCv ++ rawGiven ++ rawHall ++ 0#8)
  | .pidCfg idx sub maxOutput integralLimit p i d =>
      .h (packRequest (header 1#4 idx sub) maxOutput integralLimit p i d)
  | .pidGains idx p i d => .h (packRequest (header 2#4 idx 0#8) p i d 0#32 0#32)
  | .pidLim idx maxError deadband => .h (packRequest (header 3#4 idx 0#8) maxError deadband 0#32 0#32 0#32)
  | .pidCalc idx sub measurement setpoint =>
      .h (packRequest (header 4#4 idx sub) measurement setpoint 0#32 0#32 0#32)
  | .pidCalcFb idx sub measurement setpoint feedback =>
      .h (packRequest (header 5#4 idx sub) measurement setpoint feedback 0#32 0#32)
  | .pidRd idx sub => .h (packRequest (header 6#4 idx sub) 0#32 0#32 0#32 0#32 0#32)
  | .msRd idx => .h (packRequest (header 7#4 idx 0#8) 0#32 0#32 0#32 0#32 0#32)

/-- The operation on a port whose bits are `w`, numbered as spec/opcode_table.json numbers them. A row of 64 bits is the T
port's (`FRAME`): its one word is `t_data`, and the identifier, which the table gives no bits, is 0. Every other row is an
H request: its first 32-bit word is `w0`, the next `w1`, and so on; the words the row has no bits for are 0.
DESIGN CHOICE (log entry 12): how the table's rows tell the two ports apart. -/
def tablePortOp (nbits w : Nat) : PortOp :=
  if nbits = 64 then .t 0 (BitVec.ofNat 64 w)
  else
    let b := w % 2 ^ nbits
    .h (packRequest (BitVec.ofNat 32 b) (BitVec.ofNat 32 (b >>> 32)) (BitVec.ofNat 32 (b >>> 64))
      (BitVec.ofNat 32 (b >>> 96)) (BitVec.ofNat 32 (b >>> 128)) (BitVec.ofNat 32 (b >>> 160)))

/-- The operation the decoder reads from a row's bits, none where it rejects them. -/
def decodeTableWord (nbits w : Nat) : Option Instr :=
  match decode (tablePortOp nbits w) with
  | .instr i => some i
  | .reservedOpcode _ => none

end Sys2Proof
end

