-- ==== Sys2Proof/Config.lean ====
section
/-!
DEFINITION. What the spec leaves to an implementation (`00_scope.md` R6): the sizes and identifiers a model takes as
arguments, and the two values nothing fixes, `ARB` and the pattern of a NaN that arises inside a computation. The free
values have no body: no proof can see which value they have.
-/

namespace Sys2Proof

/-- The open sizes and identifiers of `00_scope.md` R6. -/
structure Params where
  /-- `NMOTORS`, the number of motor slots. -/
  nmotors : Nat
  /-- `NAXES`, the number of controllers. -/
  naxes : Nat
  /-- `ID_WIDTH`, the width of a bus identifier. -/
  idWidth : Nat
  /-- `ID_BASE`, the identifier of slot 0. -/
  idBase : Nat
  deriving DecidableEq, Repr

/-- The bounds R6 sets on the parameters. -/
abbrev Params.Legal (p : Params) : Prop :=
  1 ≤ p.nmotors ∧ p.nmotors ≤ 256 ∧ 1 ≤ p.naxes ∧ p.naxes ≤ 256 ∧ p.idBase + p.nmotors ≤ 2 ^ p.idWidth

/-- The example values of `95_test_vectors.md` (conventions) and the default `ID_WIDTH` of R6.
DESIGN CHOICE (log entry 1), unsafe: only `State.reset` uses them. -/
def Params.standard : Params := { nmotors := 4, naxes := 4, idWidth := 11, idBase := 0x201 }

/-- `ARB` (R6, R53, D3): whether the T port goes first when both ports present an operation, at the given count of
performed operations. A FREE VALUE (log entry 3), safe: both orders are admitted. -/
opaque Config.arbTakesT : Nat → Bool

/-- The 32 bits offered for a NaN that arises inside a computation (U5: "which NaN pattern is `any value` among NaNs"),
at a count of performed operations and a place in the computation. A FREE VALUE (log entry 4), safe. The machine uses it
only through `Machine.nanAt`, which keeps it among the NaN patterns. -/
opaque Config.freeNaN : Nat → Nat → BitVec 32

end Sys2Proof
end

