-- ==== Sys2Proof/Machine/Fp.lean ====
section
/-!
DEFINITION. The binary32 arithmetic of `42_math_primitives.md` R170 to R176: the parameter `FpArith` of R6 with the
instantiation D14. A finite binary32 value is an exact multiple of 2^-149; arithmetic is done on those exact multiples, in
`Int` and `Nat`, and rounded once (R171). An operation whose result is a NaN takes the NaN as an argument: its pattern is a
free value (U5, log entry 4).
-/

namespace Sys2Proof.Machine

/-- The sign bit, bit 31 (R170). -/
def signOf (a : F32) : Bool := a.msb

/-- The biased exponent, bits 30 to 23 (R170). -/
def expOf (a : F32) : Nat := (a.extractLsb' 23 8).toNat

/-- The fraction, bits 22 to 0 (R170). -/
def fracOf (a : F32) : Nat := (a.extractLsb' 0 23).toNat

/-- A NaN: exponent field 255 and a fraction that is not 0 (R170). -/
def isNaN (a : F32) : Bool := expOf a == 255 && fracOf a != 0

/-- An infinity: exponent field 255 and fraction 0 (R170). -/
def isInf (a : F32) : Bool := expOf a == 255 && fracOf a == 0

/-- Neither a NaN nor an infinity (R170, R177). -/
def isFinite (a : F32) : Bool := expOf a != 255

/-- A zero of either sign (R170). -/
def isZero (a : F32) : Bool := expOf a == 0 && fracOf a == 0

/-- The magnitude of a finite value, in units of 2^-149 (R170): `frac` when the exponent field is 0, and
`(2^23 + frac) × 2^(exp - 1)` otherwise. -/
def unitsMag (a : F32) : Nat :=
  if expOf a = 0 then fracOf a else (2 ^ 23 + fracOf a) * 2 ^ (expOf a - 1)

/-- A finite value, in units of 2^-149 (R170). -/
def units (a : F32) : Int := if signOf a then -(unitsMag a : Int) else (unitsMag a : Int)

/-- `num / den` to the nearest natural number, ties to even. -/
def roundNatEven (num den : Nat) : Nat :=
  let q := num / den
  let r := num % den
  if 2 * r > den ∨ (2 * r = den ∧ q % 2 = 1) then q + 1 else q

/-- A sign bit before 31 bits of magnitude. -/
def withSign (neg : Bool) (mag : Nat) : F32 := BitVec.ofNat 32 (if neg then 2 ^ 31 + mag else mag)

/-- The infinity of a sign (R170). -/
def infinity (neg : Bool) : F32 := withSign neg 0x7F800000

/-- The exact magnitude `num / den`, in units of 2^-149, rounded once to binary32, to nearest with ties to even (R171).
With `e` the power of two that leaves 24 bits (0 in the subnormal range and the first normal one, so that underflow is
gradual), the pattern of `m × 2^e` units is `e × 2^23 + m`, for `m = 2^24` as well; past the largest finite pattern the
result is an infinity. -/
def roundUnits (neg : Bool) (num den : Nat) : F32 :=
  let e := Nat.log2 (num / den) - 23
  let bits := e * 2 ^ 23 + roundNatEven num (den * 2 ^ e)
  if bits < 0x7F800000 then withSign neg bits else infinity neg

/-- A NaN pattern of no sign, used only to keep the free value among the NaNs. -/
def quietNaN : F32 := 0x7FC00000#32

/-- The NaN that arises at place `site` of the operation performed at count `k` (U5): the free value where it is a NaN
pattern, so that every NaN pattern, and nothing else, is admitted. -/
def nanAt (k site : Nat) : F32 :=
  if isNaN (Config.freeNaN k site) then Config.freeNaN k site else quietNaN

/-- `fneg` inverts the sign bit (R174). -/
def fneg (a : F32) : F32 := a ^^^ 0x80000000#32

/-- `fabs` clears the sign bit (R174). -/
def fabs (a : F32) : F32 := a &&& 0x7FFFFFFF#32

/-- `fadd` (R171): the exact sum rounded once. A sum of exactly 0 is +0.0 unless both operands are negative zeros.
Infinities of opposite sign make a NaN (U5). -/
def fadd (nan a b : F32) : F32 :=
  if isNaN a || isNaN b then nan
  else if isInf a then (if isInf b && signOf a != signOf b then nan else a)
  else if isInf b then b
  else
    let n := units a + units b
    if n = 0 then withSign (signOf a && signOf b) 0 else roundUnits (decide (n < 0)) n.natAbs 1

/-- `fsub` (R171): addition of the operand with its sign inverted, which keeps a NaN a NaN. -/
def fsub (nan a b : F32) : F32 := fadd nan a (fneg b)

/-- `fmul` (R171): the exact product rounded once. An infinity times a zero makes a NaN (U5). -/
def fmul (nan a b : F32) : F32 :=
  let neg := signOf a != signOf b
  if isNaN a || isNaN b then nan
  else if isInf a || isInf b then (if isZero a || isZero b then nan else infinity neg)
  else roundUnits neg (unitsMag a * unitsMag b) (2 ^ 149)

/-- `fdiv` (R171): the exact quotient rounded once. A zero by a zero and an infinity by an infinity make a NaN; any other
value by a zero makes an infinity. The block divides by 100.0 only. -/
def fdiv (nan a b : F32) : F32 :=
  let neg := signOf a != signOf b
  if isNaN a || isNaN b then nan
  else if isInf a then (if isInf b then nan else infinity neg)
  else if isInf b then withSign neg 0
  else if isZero b then (if isZero a then nan else infinity neg)
  else roundUnits neg (unitsMag a * 2 ^ 149) (unitsMag b)

/-- Where a pattern that is no NaN stands in the order of values: the 31 bits of magnitude, negative under a sign bit, so
that both zeros are 0 and an infinity is beyond every finite value. -/
def orderKey (a : F32) : Int :=
  if signOf a then -((fabs a).toNat : Int) else ((fabs a).toNat : Int)

/-- `flt(a, b)`, the ordered comparison `a < b` (R173). -/
def flt (a b : F32) : Bool := !isNaN a && !isNaN b && decide (orderKey a < orderKey b)

/-- `fgt(a, b)`, the ordered comparison `a > b` (R173). -/
def fgt (a b : F32) : Bool := !isNaN a && !isNaN b && decide (orderKey b < orderKey a)

/-- `fne0(a)`: neither +0.0 nor -0.0 (R173). -/
def fne0 (a : F32) : Bool := !isZero a

/-- `clamp(x, L)` (R175), the first test that holds wins. -/
def clamp (x limit : F32) : F32 :=
  if fgt x limit then limit
  else if flt x (fneg limit) then fneg limit
  else x

end Sys2Proof.Machine
end

