-- ==== Sys2Proof/Machine/State.lean ====
section
/-!
DEFINITION. The state of the block (`10_state.md`): the motor-state register file and the controller register file, the open
parameters, and, as data, what stands at the two ports. Nothing else is state (R38): no program counter (R36), no flag
(R37), no memory (R40). The reset values are those of R39.
-/

namespace Sys2Proof.Machine

/-- One motor slot, the ten fields of R11 to R20. -/
structure MotorState where
  /-- R11, u16: the latest raw angle, all 16 bits. -/
  angle : Half
  /-- R12, u16: the raw angle before it. -/
  lastAngle : Half
  /-- R13, u16: the zero reference. -/
  offsetAngle : Half
  /-- R14, i32: the turn counter. -/
  roundCount : Word
  /-- R15, i32: the unwrapped angle. -/
  totalAngle : Word
  /-- R16, i16. -/
  current : Half
  /-- R17, i16. -/
  givenCurrent : Half
  /-- R18, i16: a register of its own, loaded with the same value as `current`. -/
  velocity : Half
  /-- R19, u8. -/
  hallState : Byte
  /-- R20, u32: the frames decoded for this slot. -/
  messageCount : Word
  deriving DecidableEq, Repr

/-- A history triple (R30): index 0 is `cur`, index 1 is `prev`, index 2 is `prev2`. -/
structure Triple where
  cur : F32
  prev : F32
  prev2 : F32
  deriving DecidableEq, Repr

/-- One controller, the twenty registers of R23. -/
structure PidController where
  /-- `P`, R24. -/
  p : F32
  /-- `I`, R24. -/
  i : F32
  /-- `D`, R24. -/
  d : F32
  /-- `MAXOUT`, R26. -/
  maxOut : F32
  /-- `INTLIM`, R27. -/
  intLim : F32
  /-- `MAXERR`, R28. -/
  maxErr : F32
  /-- `DEADBAND`, R29. -/
  deadband : F32
  /-- `MODE`, R25. -/
  mode : Mode
  /-- `SET[0..2]`, R30. -/
  setHist : Triple
  /-- `GET[0..2]`, R30. -/
  getHist : Triple
  /-- `ERR[0..2]`, R30. -/
  errHist : Triple
  /-- `IOUT`, R31. -/
  iOut : F32
  /-- `POSOUT`, R32. -/
  posOut : F32
  /-- `INCOUT`, R33. -/
  incOut : F32
  deriving DecidableEq, Repr

/-- A frame on the T port (R61): the identifier and the eight data bytes, byte 0 in bits 63 to 56 (R63). -/
structure TFrame where
  id : Nat
  data : BitVec 64
  deriving DecidableEq, Repr

/-- A response of the H port (R70): seven words. -/
structure Response where
  r0 : Word
  r1 : Word
  r2 : Word
  r3 : Word
  r4 : Word
  r5 : Word
  r6 : Word
  deriving DecidableEq, Repr

/-- The whole state. -/
structure State where
  /-- `ID_WIDTH` (R6); no step changes it. -/
  idWidth : Nat
  /-- `ID_BASE` (R6); no step changes it. -/
  idBase : Nat
  /-- The motor-state register file (R10); its length is `NMOTORS`. -/
  ms : List MotorState
  /-- The controller register file (R23); its length is `NAXES`. -/
  pid : List PidController
  /-- The MODEL's own field (log entry 2): the operations the T port presents, oldest first (R202). -/
  tPort : List TFrame
  /-- The MODEL's own field (log entry 2): the requests the H port presents, oldest first (R202). -/
  hPort : List (BitVec 192)
  /-- The MODEL's own field (log entry 2): the responses the H port has given, oldest first (R65). -/
  responses : List Response
  /-- The MODEL's own field (log entry 3): how many operations have been performed, where the free values are read. -/
  opCount : Nat
  deriving DecidableEq, Repr

/-- Why a step may end in a fault: never. "The block has no synchronous exception, no trap and no fault" (R190). -/
inductive Fault where
  deriving DecidableEq, Repr

/-- Why a step may end in a refusal. All but the first are the cases that the spec calls unspecified and in which, in its
words, "a model refuses the operation". -/
inductive Refusal where
  /-- Raised by `exec` for an instruction that has no meaning yet. No instruction is in that case. Safe. -/
  | notModelled (mnemonic : String)
  /-- Raised by any `PID.*` operation but `PID.RD` with an operand, or on an axis with an `f32` register, that is a NaN or an
  infinity (R177, U3, C5). Safe: the spec gives neither a response nor a next state. -/
  | nonFinite (mnemonic : String)
  /-- Raised by a compute on an axis with a limit less than zero (R177, U4). Safe: as above. -/
  | negativeLimit (mnemonic : String)
  /-- Raised by `PID.CALCFB` on an axis in incremental mode (R141, U7). Safe: as above. -/
  | feedbackInIncrementalMode
  deriving DecidableEq, Repr

/-- The outcome of a meaning. -/
abbrev StepOutcome := Host.Outcome State Fault Refusal

/-- A slot after reset: every field 0 (R39). -/
def MotorState.reset : MotorState :=
  { angle := 0, lastAngle := 0, offsetAngle := 0, roundCount := 0, totalAngle := 0, current := 0, givenCurrent := 0,
    velocity := 0, hallState := 0, messageCount := 0 }

/-- A history triple after reset (R39). -/
def Triple.reset : Triple := { cur := 0, prev := 0, prev2 := 0 }

/-- A controller after reset: every register +0.0, the mode position (R39, D23). -/
def PidController.reset : PidController :=
  { p := 0, i := 0, d := 0, maxOut := 0, intLim := 0, maxErr := 0, deadband := 0, mode := .position,
    setHist := Triple.reset, getHist := Triple.reset, errHist := Triple.reset, iOut := 0, posOut := 0, incOut := 0 }

/-- The block of the given parameters right after reset (R39, R210), with nothing at its ports. -/
def State.resetWith (q : Params) : State :=
  { idWidth := q.idWidth, idBase := q.idBase, ms := List.replicate q.nmotors MotorState.reset,
    pid := List.replicate q.naxes PidController.reset, tPort := [], hPort := [], responses := [], opCount := 0 }

/-- The block right after reset, at the parameters of `Params.standard` (DESIGN CHOICE, log entry 1, unsafe: the spec
leaves the parameters open; statements about reset are made about `State.resetWith` instead). -/
def State.reset : State := State.resetWith Params.standard

/-- The parameters a state carries (R6): the sizes are the lengths of the register files. -/
def State.params (s : State) : Params :=
  { nmotors := s.ms.length, naxes := s.pid.length, idWidth := s.idWidth, idBase := s.idBase }

end Sys2Proof.Machine
end

