-- ==== Sys2Proof/Machine/Operands.lean ====
section
/-!
DEFINITION. The constants of `00_scope.md` R6 and `42_math_primitives.md` R176, what a `sub` field names (`30_encoding.md`
R69, R72, R74), the words of a response (R70, R71), and reading one register of a controller (R142).
-/

namespace Sys2Proof.Machine

/-- `MODULUS` (R6), the raw counts of one turn. -/
def modulus : Int := 8192

/-- `HALF` (R6), the wrap threshold. -/
def halfTurn : Int := 4096

/-- `WARMUP_MAX` (R6). -/
def warmupMax : Nat := 50

/-- `GIVEN_DIV` (R6). -/
def givenDiv : Int := -5

/-- +0.0 (R176). -/
def fZero : F32 := 0x00000000#32

/-- `ROT_LIMIT`, 8191.0 (R6, R176). -/
def rotLimit : F32 := 0x45FFF800#32

/-- -8191.0 (R176). -/
def negRotLimit : F32 := 0xC5FFF800#32

/-- `ROT_PERIOD`, 16383.0 (R6, R176). -/
def rotPeriod : F32 := 0x467FFC00#32

/-- `DEG_LIMIT`, 180.0 (R6, R176). -/
def degLimit : F32 := 0x43340000#32

/-- -180.0 (R176). -/
def negDegLimit : F32 := 0xC3340000#32

/-- `DEG_PERIOD`, 360.0 (R6, R176). -/
def degPeriod : F32 := 0x43B40000#32

/-- 2.0 (R176). -/
def fTwo : F32 := 0x40000000#32

/-- `FB_DIV`, 100.0 (R6, R176). -/
def fbDiv : F32 := 0x42C80000#32

/-- `I_EPS`, the binary32 value nearest to 0.001 (R6, R176). -/
def iEps : F32 := 0x3A83126F#32

/-- The mode a `sub` names; none where it is reserved (R69, R74). -/
def modeOfSub (sub : Byte) : Option Mode :=
  match sub.toNat with
  | 0 => some .position
  | 1 => some .incremental
  | _ => none

/-- The error domain a `sub` names; none where it is reserved (R69, R74). -/
def domainOfSub (sub : Byte) : Option ErrorDomain :=
  match sub.toNat with
  | 0 => some .none
  | 1 => some .rotary12bit
  | 2 => some .degrees
  | _ => none

/-- The registers in the order of their select values (R72, R23). -/
def pidRegTable : List PidReg :=
  [.p, .i, .d, .maxOut, .intLim, .maxErr, .deadband, .mode, .set0, .set1, .set2, .get0, .get1, .get2, .err0, .err1,
    .err2, .iOut, .posOut, .incOut]

/-- The register a `sub` selects; none where it is reserved (R72, R74). -/
def regOfSub (sub : Byte) : Option PidReg := pidRegTable[sub.toNat]?

/-- `MODE` as a word, 0 or 1 (R25, R72). -/
def modeWord : Mode → Word
  | .position => 0
  | .incremental => 1

/-- The stored bits of one register (R72, R142). -/
def PidController.read (c : PidController) : PidReg → Word
  | .p => c.p
  | .i => c.i
  | .d => c.d
  | .maxOut => c.maxOut
  | .intLim => c.intLim
  | .maxErr => c.maxErr
  | .deadband => c.deadband
  | .mode => modeWord c.mode
  | .set0 => c.setHist.cur
  | .set1 => c.setHist.prev
  | .set2 => c.setHist.prev2
  | .get0 => c.getHist.cur
  | .get1 => c.getHist.prev
  | .get2 => c.getHist.prev2
  | .err0 => c.errHist.cur
  | .err1 => c.errHist.prev
  | .err2 => c.errHist.prev2
  | .iOut => c.iOut
  | .posOut => c.posOut
  | .incOut => c.incOut

/-- The nineteen `f32` registers of an axis (R23, R177): all but `MODE`. -/
def PidController.floats (c : PidController) : List F32 :=
  [c.p, c.i, c.d, c.maxOut, c.intLim, c.maxErr, c.deadband, c.setHist.cur, c.setHist.prev, c.setHist.prev2,
    c.getHist.cur, c.getHist.prev, c.getHist.prev2, c.errHist.cur, c.errHist.prev, c.errHist.prev2,
    c.iOut, c.posOut, c.incOut]

/-- The four limits of an axis (R177). -/
def PidController.limits (c : PidController) : List F32 := [c.maxOut, c.intLim, c.maxErr, c.deadband]

/-- A response whose `r0` is a word and whose other words are 0 (R70). -/
def scalarResponse (r0 : Word) : Response :=
  { r0 := r0, r1 := 0, r2 := 0, r3 := 0, r4 := 0, r5 := 0, r6 := 0 }

/-- The response of seven zero words (R70, R73 to R75). -/
def zeroResponse : Response := scalarResponse 0

/-- The response of `MS.RD`: the ten fields of a slot (R71). -/
def slotResponse (m : MotorState) : Response :=
  { r0 := m.totalAngle, r1 := m.roundCount, r2 := m.messageCount, r3 := m.angle ++ m.lastAngle,
    r4 := m.offsetAngle ++ m.current, r5 := m.velocity ++ m.givenCurrent, r6 := m.hallState.setWidth 32 }

/-- A response as it stands on `h_rdata`, `r0` most significant (R70). -/
def Response.hRdata (r : Response) : BitVec 224 := r.r0 ++ r.r1 ++ r.r2 ++ r.r3 ++ r.r4 ++ r.r5 ++ r.r6

end Sys2Proof.Machine
end

