-- ==== Sys2Proof/Machine/Flags.lean ====
section
/-!
DEFINITION. The conditions an operation tests. The block has no status flag, condition code or sticky bit
(`10_state.md` R37): each condition is a comparison made when it is needed, and none is stored.
-/

namespace Sys2Proof.Machine

/-- The slot is in warm-up (R21, R37, R92): `messageCount <= 50`, unsigned, before the increment. -/
def inWarmUp (m : MotorState) : Bool := decide (m.messageCount.toNat ≤ warmupMax)

/-- The max-error void check (R128). -/
def maxErrVoids (c : PidController) (error : F32) : Bool := fne0 c.maxErr && fgt (fabs error) c.maxErr

/-- The deadband void check (R129). -/
def deadbandVoids (c : PidController) (error : F32) : Bool := fne0 c.deadband && flt (fabs error) c.deadband

/-- The computation is voided (X2; R128, R129, R190). -/
def voids (c : PidController) (error : F32) : Bool := maxErrVoids c error || deadbandVoids c error

/-- The value is less than zero; -0.0 is not (R177, U4). -/
def isNegative (a : F32) : Bool := flt a fZero

/-- Every operand and every `f32` register of the axis is finite (R177, U3). -/
def allFinite (c : PidController) (operands : List F32) : Bool :=
  c.floats.all isFinite && operands.all isFinite

/-- No limit of the axis is negative (R177, U4). -/
def limitsOk (c : PidController) : Bool := c.limits.all fun x => !isNegative x

/-- The specified domain of a compute (R177). -/
def inDomain (c : PidController) (operands : List F32) : Bool := allFinite c operands && limitsOk c

end Sys2Proof.Machine
end

