-- ==== Sys2Proof/Machine/Ops.lean ====
section
/-!
DEFINITION. The named operations over the register files and the ports that the meanings share. There is no memory (R40) and
no exception to take or to return from (`60_exceptions.md` R190, R197, R198): the one shared answer to what cannot be
performed is `State.ignore` (X1).
-/

namespace Sys2Proof.Machine

/-- Write a whole slot (R48: an operation's writes take effect together). -/
def State.setSlot (s : State) (n : Nat) (m : MotorState) : State := { s with ms := s.ms.set n m }

/-- Write a whole controller (R48). -/
def State.setAxis (s : State) (n : Nat) (c : PidController) : State := { s with pid := s.pid.set n c }

/-- Give a response on the H port, after those given before (R65). -/
def State.respond (s : State) (r : Response) : State := { s with responses := s.responses ++ [r] }

/-- An ignored request (X1; R73, R74, R75): no register changes, the response is seven zero words. -/
def State.ignore (s : State) : State := s.respond zeroResponse

/-- The frames still to be presented, and one more operation performed. -/
def State.takeT (s : State) (rest : List TFrame) : State := { s with tPort := rest, opCount := s.opCount + 1 }

/-- The requests still to be presented, and one more operation performed. -/
def State.takeH (s : State) (rest : List (BitVec 192)) : State := { s with hPort := rest, opCount := s.opCount + 1 }

/-- The T port presents a frame after those it has presented (R61, R202). -/
def State.presentT (s : State) (f : TFrame) : State := { s with tPort := s.tPort ++ [f] }

/-- The H port presents a request after those it has presented (R65, R202). -/
def State.presentH (s : State) (r : BitVec 192) : State := { s with hPort := s.hPort ++ [r] }

/-- A clock edge with `rst = 1` (R210, R211): every register takes its reset value, no operation is performed, no response
is given, and the operations presented and not yet performed are lost. It is not a step (R210). Log entry 8. -/
def State.rstEdge (s : State) : State :=
  { State.resetWith s.params with responses := s.responses, opCount := s.opCount }

/-- The state in which the given operation is the next to be performed: it stands first at its port, and the other port
presents nothing, so that `ARB` has no say (R53). -/
def State.placeFirst (s : State) : PortOp → State
  | .t id data => { s with tPort := { id := id, data := data } :: s.tPort, hPort := [] }
  | .h req => { s with hPort := req :: s.hPort, tPort := [] }

/-- `ROUTE(id)` (R90): the slot of a bus identifier. -/
def route (s : State) (id : Nat) : Option Nat :=
  if s.idBase ≤ id ∧ id < s.idBase + s.ms.length then some (id - s.idBase) else none

/-- An operation on the axis `idx`; a request for an axis that does not exist is ignored (R75). -/
def onAxis (idx : Byte) (s : State) (k : PidController → StepOutcome) : StepOutcome :=
  match s.pid[idx.toNat]? with
  | none => .next s.ignore
  | some c => k c

/-- An operation whose `sub` names a value; a request with a reserved `sub` is ignored (R74). -/
def onSub {α : Type} (named : Option α) (s : State) (k : α → StepOutcome) : StepOutcome :=
  match named with
  | none => .next s.ignore
  | some x => k x

/-- A configuration operation on the specified domain: refused when an operand, or an `f32` register of the axis, is a NaN
or an infinity (R177, U3, C5). A negative limit, given or already there, is no reason: "it is the next compute that is
refused" (U4). Log entry 7. -/
def onFinite (mnemonic : String) (c : PidController) (operands : List F32) (k : StepOutcome) : StepOutcome :=
  if allFinite c operands then k else .refused (.nonFinite mnemonic)

/-- Why a compute is outside the specified domain, if it is (R177, U3, U4). -/
def domainStop (mnemonic : String) (c : PidController) (operands : List F32) : Option Refusal :=
  if !allFinite c operands then some (.nonFinite mnemonic)
  else if !limitsOk c then some (.negativeLimit mnemonic)
  else none

/-- Commit a compute on axis `n`: a voided one changes no register and answers +0.0 (R130); a successful one writes the
axis and answers its output (R136). -/
def State.commit (s : State) (n : Nat) : Option (PidController × F32) → State
  | none => s.respond (scalarResponse fZero)
  | some (c, out) => (s.setAxis n c).respond (scalarResponse out)

end Sys2Proof.Machine
end

