-- ==== Sys2Proof/Machine/Pid.lean ====
section
/-!
DEFINITION. The operations of the PID Engine (`41_pid.md`): `PID.CFG`, `PID.GAINS`, `PID.LIM`, `PID.CALC`, `PID.CALCFB`,
`PID.RD`. Every arithmetic symbol of the spec's formulas is one primitive with its own rounding, in the spec's order (R172).
The argument `nan` of a law gives, at each place of the computation, the NaN that a primitive there answers if it has no
number to answer (U5).
-/

namespace Sys2Proof.Machine

/-- One adjustment by the period when the error is beyond the limit, on either side, and no second one (R125, R126). -/
def rewrapBy (nan error negLimit limit period : F32) : F32 :=
  if flt error negLimit then fadd nan error period
  else if fgt error limit then fsub nan error period
  else error

/-- `REWRAP` (R125, R126, R127). -/
def rewrap (nan error : F32) : ErrorDomain → F32
  | .none => error
  | .rotary12bit => rewrapBy nan error negRotLimit rotLimit rotPeriod
  | .degrees => rewrapBy nan error negDegLimit degLimit degPeriod

/-- Steps 1 and 2: setpoint minus measurement (R124), rewrapped. -/
def formError (nan : Nat → F32) (dom : ErrorDomain) (measurement setpoint : F32) : F32 :=
  rewrap (nan 1) (fsub (nan 0) setpoint measurement) dom

/-- The current entry of each triple (R131). -/
def PidController.recordCurrent (c : PidController) (setpoint measurement error : F32) : PidController :=
  { c with
    setHist := { c.setHist with cur := setpoint }
    getHist := { c.getHist with cur := measurement }
    errHist := { c.errHist with cur := error } }

/-- One triple shifted: index 1 to 2, then index 0 to 1; index 0 is kept (R135). -/
def Triple.shift (t : Triple) : Triple := { cur := t.cur, prev := t.cur, prev2 := t.prev }

/-- `SHIFT_HISTORY` (R135). -/
def PidController.shiftHistory (c : PidController) : PidController :=
  { c with setHist := c.setHist.shift, getHist := c.getHist.shift, errHist := c.errHist.shift }

/-- The accumulation of the integral term, clamped by `INTLIM` (R132, R140). -/
def accumulated (nan : Nat → F32) (c : PidController) (error : F32) : F32 :=
  clamp (fadd (nan 4) c.iOut (fmul (nan 3) c.i error)) c.intLim

/-- `POSITION_LAW` (R132). -/
def positionLaw (nan : Nat → F32) (c : PidController) (error : F32) : PidController × F32 :=
  let pOut := fmul (nan 2) c.p error
  let iOut := accumulated nan c error
  let dOut := fmul (nan 6) c.d (fsub (nan 5) error c.errHist.prev)
  let out := clamp (fadd (nan 8) (fadd (nan 7) pOut iOut) dOut) c.maxOut
  ({ c with iOut := iOut, posOut := out }, out)

/-- `INCREMENTAL_LAW` (R133). -/
def incrementalLaw (nan : Nat → F32) (c : PidController) (error : F32) : PidController × F32 :=
  let pOut := fmul (nan 3) c.p (fsub (nan 2) error c.errHist.prev)
  let iOut := fmul (nan 4) c.i error
  let second := fadd (nan 7) (fsub (nan 6) error (fmul (nan 5) fTwo c.errHist.prev)) c.errHist.prev2
  let dOut := fmul (nan 8) c.d second
  let delta := clamp (fadd (nan 10) (fadd (nan 9) pOut iOut) dOut) c.intLim
  let out := clamp (fadd (nan 11) c.incOut delta) c.maxOut
  ({ c with iOut := iOut, incOut := out }, out)

/-- The law of the feedback variant (R140). -/
def feedbackLaw (nan : Nat → F32) (c : PidController) (error feedback : F32) : PidController × F32 :=
  let pOut := fmul (nan 2) c.p error
  let iOut := if flt (fabs c.i) iEps then fZero else accumulated nan c error
  let dOut := fneg (fdiv (nan 6) (fmul (nan 5) c.d feedback) fbDiv)
  let out := clamp (fadd (nan 8) (fadd (nan 7) pOut iOut) dOut) c.maxOut
  ({ c with iOut := iOut, posOut := out }, out)

/-- The law the mode selects (R123). -/
def modeLaw (nan : Nat → F32) (c : PidController) (error : F32) : PidController × F32 :=
  match c.mode with
  | .position => positionLaw nan c error
  | .incremental => incrementalLaw nan c error

/-- Steps 1 to 7 around a law (R123, R140): none when voided (R130); otherwise the axis after the record of the current
entries (R131), the law and the history shift (R135), and the output. -/
def computeWith (nan : Nat → F32) (c : PidController) (dom : ErrorDomain) (measurement setpoint : F32)
    (law : PidController → F32 → PidController × F32) : Option (PidController × F32) :=
  let error := formError nan dom measurement setpoint
  if voids c error then none
  else
    let r := law (c.recordCurrent setpoint measurement error) error
    some (r.1.shiftHistory, r.2)

/-- `PID.CFG` (R120), on finite operands and an axis of finite registers (R177, U3): six registers, and no other; the operand
bits are stored unchanged. -/
def execPidCfg (idx sub : Byte) (maxOutput integralLimit p i d : F32) (s : State) : StepOutcome :=
  onAxis idx s fun c =>
    onSub (modeOfSub sub) s fun mode =>
      onFinite "PID.CFG" c [maxOutput, integralLimit, p, i, d]
        (.next ((s.setAxis idx.toNat
          { c with mode := mode, maxOut := maxOutput, intLim := integralLimit, p := p, i := i, d := d }).respond
            zeroResponse))

/-- `PID.GAINS` (R121), on finite operands and an axis of finite registers (R177, U3): three registers, and no other. -/
def execPidGains (idx : Byte) (p i d : F32) (s : State) : StepOutcome :=
  onAxis idx s fun c =>
    onFinite "PID.GAINS" c [p, i, d]
      (.next ((s.setAxis idx.toNat { c with p := p, i := i, d := d }).respond zeroResponse))

/-- `PID.LIM` (R122), on finite operands and an axis of finite registers (R177, U3): two registers, and no other. -/
def execPidLim (idx : Byte) (maxError deadband : F32) (s : State) : StepOutcome :=
  onAxis idx s fun c =>
    onFinite "PID.LIM" c [maxError, deadband]
      (.next ((s.setAxis idx.toNat { c with maxErr := maxError, deadband := deadband }).respond zeroResponse))

/-- `PID.CALC` (R123), on the specified domain (R177). -/
def execPidCalc (idx sub : Byte) (measurement setpoint : F32) (s : State) : StepOutcome :=
  onAxis idx s fun c =>
    onSub (domainOfSub sub) s fun dom =>
      match domainStop "PID.CALC" c [measurement, setpoint] with
      | some r => .refused r
      | none =>
        let nan := nanAt s.opCount
        .next (s.commit idx.toNat (computeWith nan c dom measurement setpoint (modeLaw nan)))

/-- `PID.CALCFB` (R140), on an axis in position mode (R141) and on the specified domain (R177). -/
def execPidCalcFb (idx sub : Byte) (measurement setpoint feedback : F32) (s : State) : StepOutcome :=
  onAxis idx s fun c =>
    onSub (domainOfSub sub) s fun dom =>
      match c.mode with
      | .incremental => .refused .feedbackInIncrementalMode
      | .position =>
        match domainStop "PID.CALCFB" c [measurement, setpoint, feedback] with
        | some r => .refused r
        | none =>
          let nan := nanAt s.opCount
          .next (s.commit idx.toNat
            (computeWith nan c dom measurement setpoint fun c' error => feedbackLaw nan c' error feedback))

/-- `PID.RD` (R142): the stored bits of one register, whatever they are, a NaN included (U3 excepts it); nothing is
written. -/
def execPidRd (idx sub : Byte) (s : State) : StepOutcome :=
  onAxis idx s fun c =>
    onSub (regOfSub sub) s fun reg => .next (s.respond (scalarResponse (c.read reg)))

end Sys2Proof.Machine
end

