-- ==== Sys2Proof/Machine/Telemetry.lean ====
section
/-!
DEFINITION. The operations of the Telemetry Decoder (`40_telemetry.md`): `FRAME`, with the warm-up branch, the steady-state
branch, the wraparound detector and the turn accumulator, and `MS.RD`.
-/

namespace Sys2Proof.Machine

/-- The step of the raw angle, an exact integer (R97, R161). -/
def angleStep (angle lastAngle : Half) : Int := (angle.toNat : Int) - (lastAngle.toNat : Int)

/-- The wraparound detector (R97, R162): the new turn count, modulo 2^32. -/
def nextRoundCount (roundCount : Word) (d : Int) : Word :=
  if d > halfTurn then BitVec.ofInt 32 (roundCount.toInt - 1)
  else if d < -halfTurn then BitVec.ofInt 32 (roundCount.toInt + 1)
  else roundCount

/-- The turn accumulator (R98, R163): the exact sum, reduced once modulo 2^32. -/
def unwrappedAngle (roundCount : Word) (angle offsetAngle : Half) : Word :=
  BitVec.ofInt 32 (roundCount.toInt * modulus + (angle.toNat : Int) - (offsetAngle.toNat : Int))

/-- `givenCurrent` (R96, R164): the raw value divided by -5, truncated toward zero. -/
def givenCurrentOf (rawGiven : Half) : Half := BitVec.ofInt 16 (Int.tdiv rawGiven.toInt givenDiv)

/-- The warm-up branch (R93). -/
def MotorState.warmUp (m : MotorState) (rawAngle : Half) : MotorState :=
  { m with angle := rawAngle, offsetAngle := rawAngle }

/-- The steady-state branch: the latch (R94, R95, R96), then the detector (R97), then the accumulator (R98). -/
def MotorState.steady (m : MotorState) (rawAngle rawCv rawGiven : Half) (rawHall : Byte) : MotorState :=
  let rounds := nextRoundCount m.roundCount (angleStep rawAngle m.angle)
  { m with
    lastAngle := m.angle
    angle := rawAngle
    current := rawCv
    velocity := rawCv
    givenCurrent := givenCurrentOf rawGiven
    hallState := rawHall
    roundCount := rounds
    totalAngle := unwrappedAngle rounds rawAngle m.offsetAngle }

/-- The frame counter (R99, R165): one more, modulo 2^32. -/
def MotorState.countFrame (m : MotorState) : MotorState := { m with messageCount := m.messageCount + 1 }

/-- `DECODE` on one slot (R92): the branch is chosen by `messageCount` before its increment. -/
def MotorState.decodeFrame (m : MotorState) (rawAngle rawCv rawGiven : Half) (rawHall : Byte) : MotorState :=
  (if inWarmUp m then m.warmUp rawAngle else m.steady rawAngle rawCv rawGiven rawHall).countFrame

/-- `FRAME` (R91): the slot the identifier maps to is decoded; a frame that maps to none is dropped (R76). No response. -/
def execFrame (id : Nat) (rawAngle rawCv rawGiven : Half) (rawHall : Byte) (s : State) : StepOutcome :=
  match route s id with
  | none => .next s
  | some n =>
    match s.ms[n]? with
    | none => .next s
    | some m => .next (s.setSlot n (m.decodeFrame rawAngle rawCv rawGiven rawHall))

/-- `MS.RD` (R100): all ten fields of one slot in one response; a slot that does not exist is ignored (R75). -/
def execMsRd (idx : Byte) (s : State) : StepOutcome :=
  match s.ms[idx.toNat]? with
  | none => .next s.ignore
  | some m => .next (s.respond (slotResponse m))

end Sys2Proof.Machine
end

