-- ==== Sys2Proof/Machine/Dispatch.lean ====
section
/-! DEFINITION. One arm per operation of the block (`30_encoding.md` R60), each one call of its meaning. -/

namespace Sys2Proof.Machine

def exec (i : Instr) (s : State) : Host.Outcome State Fault Refusal :=
  match i with
  | .frame id rawAngle rawCv rawGiven rawHall => Sys2Proof.Machine.execFrame id rawAngle rawCv rawGiven rawHall s
  | .pidCfg idx sub maxOutput integralLimit gp gi gd => Sys2Proof.Machine.execPidCfg idx sub maxOutput integralLimit gp gi gd s
  | .pidGains idx gp gi gd => Sys2Proof.Machine.execPidGains idx gp gi gd s
  | .pidLim idx maxError deadband => Sys2Proof.Machine.execPidLim idx maxError deadband s
  | .pidCalc idx sub measurement setpoint => Sys2Proof.Machine.execPidCalc idx sub measurement setpoint s
  | .pidCalcFb idx sub measurement setpoint feedback => Sys2Proof.Machine.execPidCalcFb idx sub measurement setpoint feedback s
  | .pidRd idx sub => Sys2Proof.Machine.execPidRd idx sub s
  | .msRd idx => Sys2Proof.Machine.execMsRd idx s

end Sys2Proof.Machine
end

