-- ==== Sys2Proof/Machine/Step.lean ====
section
/-!
DEFINITION. One step is one operation of the total order of `20_memory.md` R52: the oldest one of the port whose turn it is.
When both ports present one, the open parameter `ARB` chooses (R53). When neither does, nothing happens (log entry 11).
-/

namespace Sys2Proof.Machine

/-- Perform what a port presented: the operation it decodes to, or, for a reserved operation code, the answer of an ignored
request (R73). -/
def perform (op : PortOp) (s : State) : Host.Outcome State Fault Refusal :=
  match decode op with
  | .instr i => exec i s
  | .reservedOpcode _ => .next s.ignore

/-- Perform the frame at the head of the T port. -/
def performT (f : TFrame) (rest : List TFrame) (s : State) : Host.Outcome State Fault Refusal :=
  perform (.t f.id f.data) (s.takeT rest)

/-- Perform the request at the head of the H port. -/
def performH (req : BitVec 192) (rest : List (BitVec 192)) (s : State) : Host.Outcome State Fault Refusal :=
  perform (.h req) (s.takeH rest)

/-- One step of the block (R52, R53). -/
def step (s : State) : Host.Outcome State Fault Refusal :=
  match s.tPort, s.hPort with
  | [], [] => .next s
  | f :: ts, [] => performT f ts s
  | [], r :: hs => performH r hs s
  | f :: ts, r :: hs => if Config.arbTakesT s.opCount then performT f ts s else performH r hs s

/-- `s` with the operation of the given bits first at its port and the other port presenting nothing, so that the very next
step performs it (log entry 12). -/
def State.withFetchWord (s : State) (nbits w : Nat) : State := s.placeFirst (tablePortOp nbits w)

end Sys2Proof.Machine
end

