-- ==== Sys2Proof/Machine/Listing.lean ====
section
/-!
DEFINITION. The listings of `30_encoding.md` R79 and R80 as data: one operation a line, performed in the order written, and
the lines and pseudo-operations that stand for others. It is notation about the block, not part of it: every line but
`RESET` is one step. Text itself is not read.
-/

namespace Sys2Proof.Machine

/-- A line of a listing (R79): an operation on a port, or `RESET`, "rst held for one clock edge, not a port operation". -/
inductive Line where
  | op (o : PortOp)
  | reset
  deriving DecidableEq, Repr

/-- One line performed (R79): its operation is the only one presented, which fixes the `ARB` order; `RESET` is a clock edge
with `rst = 1` (R210). -/
def runLine (l : Line) (s : State) : StepOutcome :=
  match l with
  | .op o => step (s.placeFirst o)
  | .reset => .next s.rstEdge

/-- A listing performed line by line, up to the first refusal (R79). -/
def runListing : List Line → State → StepOutcome
  | [], s => .next s
  | l :: rest, s =>
    match runLine l s with
    | .next s' => runListing rest s'
    | .fault e => .fault e
    | .refused r => .refused r

/-- An operation written by its operands (R79), encoded. -/
def lineOf (i : Instr) : Line := .op (encode i)

/-- `FRAME id, b0 ... b7` (R79, R63): byte 0 most significant. -/
def frameLine (id : Nat) (b0 b1 b2 b3 b4 b5 b6 b7 : Byte) : Line :=
  .op (.t id (b0 ++ b1 ++ b2 ++ b3 ++ b4 ++ b5 ++ b6 ++ b7))

/-- `DECODE s, b0 ... b7` (R80): a frame with the identifier of slot `n`. -/
def decodeLine (idBase n : Nat) (b0 b1 b2 b3 b4 b5 b6 b7 : Byte) : Line :=
  frameLine (idBase + n) b0 b1 b2 b3 b4 b5 b6 b7

/-- `ANGLE s, n` (R80): a frame with raw angle `n` and zero in every other byte. -/
def angleLine (idBase n : Nat) (rawAngle : Half) : Line :=
  decodeLine idBase n (rawAngle.extractLsb' 8 8) (rawAngle.extractLsb' 0 8) 0 0 0 0 0 0

/-- `REPEAT k` (R80): the enclosed lines written out `k` times. -/
def repeatLines : Nat → List Line → List Line
  | 0, _ => []
  | k + 1, ls => ls ++ repeatLines k ls

/-- The binary32 value nearest to the decimal literal `± num / den`, ties to even (R79). -/
def f32Literal (neg : Bool) (num den : Nat) : F32 := roundUnits neg (num * 2 ^ 149) den

end Sys2Proof.Machine
end

