-- ==== Sys2Proof/Safety.lean ====
section
/-!
DEFINITION. The terms in which statements about the block are made: what it is to complete, the invariants of the two
register files, the bits of a request that are read, and what it is for a pattern to be an exact value rounded once.
-/

namespace Sys2Proof.Machine

/-- The outcome is a next state. -/
def Completes (o : StepOutcome) : Prop := ∃ t, o = .next t

/-! ## Invariants -/

/-- R18: "After every steady-state decode `MS[s].velocity = MS[s].current`"; both are 0 before one. -/
abbrev MotorState.Aliased (m : MotorState) : Prop := m.velocity = m.current

/-- R15 and R98: once a steady-state decode has been done, `totalAngle` is what the other fields make of it. -/
abbrev MotorState.Unwrapped (m : MotorState) : Prop :=
  52 ≤ m.messageCount.toNat → m.totalAngle = unwrappedAngle m.roundCount m.angle m.offsetAngle

/-- R21 and R221: up to `messageCount = 51` the seven fields of the steady state hold 0. -/
abbrev MotorState.WarmUpClear (m : MotorState) : Prop :=
  m.messageCount.toNat ≤ 51 →
    m.totalAngle = 0 ∧ m.roundCount = 0 ∧ m.lastAngle = 0 ∧ m.current = 0 ∧ m.givenCurrent = 0 ∧ m.velocity = 0 ∧
      m.hallState = 0

/-- R21: during warm-up the zero reference is the last raw angle. -/
abbrev MotorState.Referenced (m : MotorState) : Prop := m.messageCount.toNat ≤ 51 → m.offsetAngle = m.angle

/-- R30: index 0 and index 1 of a triple hold the same value after a successful computation, as they do at reset. -/
abbrev Triple.Settled (t : Triple) : Prop := t.cur = t.prev

/-- R30, for the three triples of an axis. -/
abbrev PidController.Settled (c : PidController) : Prop :=
  c.setHist.Settled ∧ c.getHist.Settled ∧ c.errHist.Settled

/-- R61: every identifier still to be presented fits `t_id`. -/
abbrev State.PortsOk (s : State) : Prop := ∀ f ∈ s.tPort, f.id < 2 ^ s.idWidth

/-- The invariant of the block: legal parameters (R6), identifiers that fit (R61), and R15, R18 and R30 for every slot and
every axis. -/
abbrev State.Inv (s : State) : Prop :=
  s.params.Legal ∧ s.PortsOk ∧ (∀ m ∈ s.ms, m.Aliased ∧ m.Unwrapped) ∧ ∀ c ∈ s.pid, c.Settled

/-- The warm-up invariant (R21) of every slot. -/
abbrev State.WarmUpInv (s : State) : Prop := ∀ m ∈ s.ms, m.WarmUpClear ∧ m.Referenced

/-- No slot is at the last value of `messageCount`, from which it would re-enter warm-up (R226). -/
abbrev State.NoWrapAhead (s : State) : Prop := ∀ m ∈ s.ms, m.messageCount.toNat < 2 ^ 32 - 1

/-! ## The bits of a request that are read -/

/-- The bits of a request that its operation reads (R66, R68, R77): the others are ignored. -/
def readMask (op : Nat) : BitVec 192 :=
  match op with
  | 1 => packRequest 0xFFFFF000#32 0xFFFFFFFF#32 0xFFFFFFFF#32 0xFFFFFFFF#32 0xFFFFFFFF#32 0xFFFFFFFF#32
  | 2 => packRequest 0xFFF00000#32 0xFFFFFFFF#32 0xFFFFFFFF#32 0xFFFFFFFF#32 0#32 0#32
  | 3 => packRequest 0xFFF00000#32 0xFFFFFFFF#32 0xFFFFFFFF#32 0#32 0#32 0#32
  | 4 => packRequest 0xFFFFF000#32 0xFFFFFFFF#32 0xFFFFFFFF#32 0#32 0#32 0#32
  | 5 => packRequest 0xFFFFF000#32 0xFFFFFFFF#32 0xFFFFFFFF#32 0xFFFFFFFF#32 0#32 0#32
  | 6 => packRequest 0xFFFFF000#32 0#32 0#32 0#32 0#32 0#32
  | 7 => packRequest 0xFFF00000#32 0#32 0#32 0#32 0#32 0#32
  | _ => packRequest 0xF0000000#32 0#32 0#32 0#32 0#32 0#32

/-- The operation code of a request, `h_req[191:188]` (R66). -/
def requestOp (req : BitVec 192) : Nat := (req.extractLsb' 188 4).toNat

/-- The operation stands on the T port (R60): it is a `FRAME`. -/
def onTPort : Instr → Bool
  | .frame .. => true
  | _ => false

/-- The axis or slot an operation of the H port names (R66); none for `FRAME`. -/
def requestIndex : Instr → Option Nat
  | .frame .. => none
  | .pidCfg idx .. => some idx.toNat
  | .pidGains idx .. => some idx.toNat
  | .pidLim idx .. => some idx.toNat
  | .pidCalc idx .. => some idx.toNat
  | .pidCalcFb idx .. => some idx.toNat
  | .pidRd idx .. => some idx.toNat
  | .msRd idx => some idx.toNat

/-- `totalAngle` is exact: its 32 bits hold the mathematical value (R163). -/
abbrev MotorState.ExactTotal (m : MotorState) : Prop :=
  m.totalAngle.toInt = m.roundCount.toInt * 8192 + (m.angle.toNat : Int) - (m.offsetAngle.toNat : Int)

/-- The frames of a list decoded one after the other on a slot (R92). -/
def decodeAll (m : MotorState) (frames : List (Half × Half × Half × Byte)) : MotorState :=
  frames.foldl (fun m f => m.decodeFrame f.1 f.2.1 f.2.2.1 f.2.2.2) m

/-! ## Binary32 -/

/-- Half a step past the largest finite magnitude, in units of 2^-149: from here on a value rounds to an infinity. -/
def overflowUnits : Nat := (2 ^ 25 - 1) * 2 ^ 252

/-- How far a finite pattern is from `num / den` units, times `|den|`. -/
def distanceFrom (num den : Int) (c : F32) : Nat := (units c * den - num).natAbs

/-- The pattern `r` is the exact value `num / den`, in units of 2^-149, rounded once to nearest with ties to even (R171):
finite and as near as any finite pattern, with an even last bit where another value is as near; or, past the overflow
threshold, the infinity of the value's sign. -/
def RoundedOnce (r : F32) (num den : Int) : Prop :=
  if num.natAbs < overflowUnits * den.natAbs then
    isFinite r = true ∧
      ∀ c : F32, isFinite c = true →
        distanceFrom num den r ≤ distanceFrom num den c ∧
          (distanceFrom num den c = distanceFrom num den r → units c ≠ units r → r.getLsbD 0 = false)
  else r = infinity (decide (num * den < 0))

/-- A pattern is a NaN or a finite value of magnitude at most that of `limit` (R144). -/
def BoundedBy (r limit : F32) : Prop :=
  isNaN r = true ∨ (isFinite r = true ∧ unitsMag r ≤ unitsMag limit)

end Sys2Proof.Machine
end

