-- ==== Sys2Proof/Certificates/Slice0/Obligations.lean ====
section
/-!
DEFINITION. The statements about the block, each citing the rules of spec/ it comes from. `s` is any state: any number of
slots and axes, any identifier base, any contents. Where a computation may end in a NaN, `nanAt s.opCount k` is the NaN that
its place `k` answers (log entry 4): the statements hold for every value of it.
-/

open Sys2Proof Sys2Proof.Machine

/-! ## Encodings -/

/-- R66 to R69: no bit of an operand is lost on the way through an encoding. -/
def Obligations.EncodedOperationDecodes : Prop := ∀ i : Instr, decode (encode i) = .instr i

/-- R77: the ignored bits of a request and of a frame have no effect, and neither have bytes 2 to 6 in warm-up. -/
def Obligations.IgnoredBitsHaveNoEffect : Prop :=
  (∀ (req : BitVec 192) (s : State), perform (.h (req &&& readMask (requestOp req))) s = perform (.h req) s) ∧
  (∀ (id : Nat) (data : BitVec 64) (s : State),
    perform (.t id (data &&& 0xFFFFFFFFFFFFFF00#64)) s = perform (.t id data) s) ∧
  ∀ (m : MotorState) (a cv g cv' g' : Half) (h h' : Byte), m.messageCount.toNat ≤ 50 →
    m.decodeFrame a cv g h = m.decodeFrame a cv' g' h'

/-- R82: the worked encodings of the spec decode to the operations they are of, and their patterns are the ones of the
decimal values written there. -/
def Obligations.WorkedEncodingsDecode : Prop :=
  f32Literal true 170 1 = 0xC32A0000#32 ∧ f32Literal false 170 1 = 0x432A0000#32 ∧ f32Literal false 50 1 = 0x42480000#32 ∧
  f32Literal false 20 1 = 0x41A00000#32 ∧ f32Literal false 1 1 = 0x3F800000#32 ∧ f32Literal false 1 2 = 0x3F000000#32 ∧
  f32Literal false 0 1 = 0x00000000#32 ∧
  decode (.h (packRequest 0x40002000#32 0xC32A0000#32 0x432A0000#32 0#32 0#32 0#32)) =
    .instr (.pidCalc 0#8 2#8 0xC32A0000#32 0x432A0000#32) ∧
  decode (.h (packRequest 0x10101000#32 0x42480000#32 0x41A00000#32 0x3F800000#32 0x3F000000#32 0x00000000#32)) =
    .instr (.pidCfg 1#8 1#8 0x42480000#32 0x41A00000#32 0x3F800000#32 0x3F000000#32 0x00000000#32) ∧
  decode (.h (packRequest 0x70300000#32 0#32 0#32 0#32 0#32 0#32)) = .instr (.msRd 3#8) ∧
  angleLine 0x201 0 8100#16 = .op (.t 0x201 0x1FA4000000000000#64) ∧
  decode (.t 0x201 0x1FA4000000000000#64) = .instr (.frame 0x201 8100#16 0#16 0#16 0#8)

/-- R69: what a `sub` names, and that every other value is reserved. -/
def Obligations.SubFieldsNameTheirValues : Prop :=
  ∀ sub : Byte,
    modeOfSub sub = (if sub = 0#8 then some .position else if sub = 1#8 then some .incremental else none) ∧
    domainOfSub sub = (if sub = 0#8 then some .none else if sub = 1#8 then some .rotary12bit
      else if sub = 2#8 then some .degrees else none)

/-- R70: the words of a response stand on `h_rdata` with `r0` most significant. -/
def Obligations.ResponseWordsStandInOrder : Prop :=
  ∀ r : Response,
    r.hRdata.extractLsb' 192 32 = r.r0 ∧ r.hRdata.extractLsb' 160 32 = r.r1 ∧ r.hRdata.extractLsb' 128 32 = r.r2 ∧
    r.hRdata.extractLsb' 96 32 = r.r3 ∧ r.hRdata.extractLsb' 64 32 = r.r4 ∧ r.hRdata.extractLsb' 32 32 = r.r5 ∧
    r.hRdata.extractLsb' 0 32 = r.r6

/-! ## Steps -/

/-- R52, R53, R91, R73: a step performs the oldest operation of the port whose turn it is, on the state without it, or
answers it with zeros if its operation code is reserved; when both ports present one, `ARB` says whose turn it is; when neither does, nothing changes (the model's choice, log entry 11). -/
def Obligations.StepPerformsTheOldestOperation : Prop :=
  ∀ s : State,
    (s.tPort = [] → s.hPort = [] → step s = .next s) ∧
    (∀ f ts, s.tPort = f :: ts → s.hPort = [] →
      step s = exec (decodeFrame f.id f.data) { s with tPort := ts, opCount := s.opCount + 1 }) ∧
    (∀ r hs, s.hPort = r :: hs →
      let host : StepOutcome :=
        match decodeRequest r with
        | .instr i => exec i { s with hPort := hs, opCount := s.opCount + 1 }
        | .reservedOpcode _ => .next { s with
            hPort := hs, opCount := s.opCount + 1, responses := s.responses ++ [⟨0, 0, 0, 0, 0, 0, 0⟩] }
      (s.tPort = [] → step s = host) ∧
      ∀ f ts, s.tPort = f :: ts →
        step s = if Config.arbTakesT s.opCount
          then exec (decodeFrame f.id f.data) { s with tPort := ts, opCount := s.opCount + 1 }
          else host)

/-- R73: a request with operation code 0 or 8 to 15 is ignored: no register changes and the response is seven zero words.
So does the step that finds it first on the H port, the T port presenting nothing. -/
def Obligations.ReservedOpcodeIsIgnored : Prop :=
  ∀ (s : State) (r : BitVec 192), (requestOp r = 0 ∨ 8 ≤ requestOp r) →
    perform (.h r) s = .next { s with responses := s.responses ++ [⟨0, 0, 0, 0, 0, 0, 0⟩] } ∧
    ∀ hs : List (BitVec 192), s.tPort = [] → s.hPort = r :: hs →
      step s =
        .next { s with hPort := hs, opCount := s.opCount + 1, responses := s.responses ++ [⟨0, 0, 0, 0, 0, 0, 0⟩] }

/-- R65: a step that changes anything takes one frame and answers nothing, or takes one request and answers it once, after
the answers given before. -/
def Obligations.EachRequestIsAnsweredOnceInOrder : Prop :=
  ∀ s t : State, step s = .next t →
    t = s ∨
    (∃ f, s.tPort = f :: t.tPort ∧ t.hPort = s.hPort ∧ t.responses = s.responses) ∨
    (∃ r answer, s.hPort = r :: t.hPort ∧ t.tPort = s.tPort ∧ t.responses = s.responses ++ [answer])

/-- R53: a frame and an operation of the H port give the same state in either order, unless the operation reads the slot
the frame is routed to. -/
def Obligations.FrameCommutesWithHostOperation : Prop :=
  ∀ (s s2 : State) (id : Nat) (a cv g : Half) (h : Byte) (j : Instr), onTPort j = false →
    (∀ idx, j = .msRd idx → id ≠ s.idBase + idx.toNat) →
    exec j s = .next s2 →
    ∃ s1 t, exec (.frame id a cv g h) s = .next s1 ∧ exec j s1 = .next t ∧ exec (.frame id a cv g h) s2 = .next t

/-! ## Reset -/

/-- R39, R210: what reset leaves, for every choice of the open parameters: all zeros, every slot in warm-up, every
controller in position mode. -/
def Obligations.ResetLeavesZeros : Prop :=
  ∀ q : Params,
    (State.resetWith q).ms.length = q.nmotors ∧ (State.resetWith q).pid.length = q.naxes ∧
    (∀ m ∈ (State.resetWith q).ms, m = ⟨0, 0, 0, 0, 0, 0, 0, 0, 0, 0⟩ ∧ inWarmUp m = true) ∧
    (∀ c ∈ (State.resetWith q).pid, c.mode = .position ∧ ∀ r : PidReg, c.read r = 0)

/-- R210, R211: a clock edge with `rst = 1` gives every register its reset value, answers nothing and loses the operations
not yet performed; it keeps the parameters. That it keeps the answers already given is the model's choice (log entry 8). -/
def Obligations.RstEdgeResetsEveryRegister : Prop :=
  ∀ s : State,
    s.rstEdge.ms = (State.resetWith s.params).ms ∧ s.rstEdge.pid = (State.resetWith s.params).pid ∧
    s.rstEdge.tPort = [] ∧ s.rstEdge.hPort = [] ∧ s.rstEdge.responses = s.responses ∧ s.rstEdge.params = s.params

/-! ## Telemetry -/

/-- R76, R90: a frame with an unknown identifier changes nothing. -/
def Obligations.FrameWithUnknownIdIsDropped : Prop :=
  ∀ (s : State) (id : Nat) (a cv g : Half) (h : Byte), (id < s.idBase ∨ s.idBase + s.ms.length ≤ id) →
    exec (.frame id a cv g h) s = .next s

/-- R90, R92, R93, R99: a frame that finds its slot in warm-up writes `angle`, `offsetAngle` and `messageCount` of that slot,
and nothing else anywhere. -/
def Obligations.FrameInWarmUpWritesItsSlot : Prop :=
  ∀ (s : State) (n : Nat) (m : MotorState) (a cv g : Half) (h : Byte), s.ms[n]? = some m → m.messageCount.toNat ≤ 50 →
    exec (.frame (s.idBase + n) a cv g h) s =
      .next { s with ms := s.ms.set n { m with angle := a, offsetAngle := a, messageCount := m.messageCount + 1 } }

/-- R90, R92, R94 to R99: a frame that finds its slot past warm-up writes nine fields of that slot, and nothing else
anywhere. -/
def Obligations.FrameInSteadyStateWritesItsSlot : Prop :=
  ∀ (s : State) (n : Nat) (m : MotorState) (a cv g : Half) (h : Byte), s.ms[n]? = some m → 51 ≤ m.messageCount.toNat →
    let d : Int := (a.toNat : Int) - (m.angle.toNat : Int)
    let rounds : Word :=
      if d > 4096 then m.roundCount - 1 else if d < -4096 then m.roundCount + 1 else m.roundCount
    exec (.frame (s.idBase + n) a cv g h) s =
      .next { s with
        ms := s.ms.set n { m with
          angle := a, lastAngle := m.angle, roundCount := rounds
          totalAngle := BitVec.ofInt 32 (rounds.toInt * 8192 + (a.toNat : Int) - (m.offsetAngle.toNat : Int))
          current := cv, givenCurrent := BitVec.ofInt 16 (Int.tdiv g.toInt (-5)), velocity := cv, hallState := h
          messageCount := m.messageCount + 1 } }

/-- R165, R92: `messageCount` counts modulo 2^32, and the branch is chosen by its unsigned value before the count. -/
def Obligations.MessageCountSelectsTheBranch : Prop :=
  ∀ (m : MotorState) (a cv g : Half) (h : Byte),
    (m.decodeFrame a cv g h).messageCount.toNat = (m.messageCount.toNat + 1) % 2 ^ 32 ∧
    (m.messageCount.toNat ≤ 50 → m.decodeFrame a cv g h = (m.warmUp a).countFrame) ∧
    (¬ m.messageCount.toNat ≤ 50 → m.decodeFrame a cv g h = (m.steady a cv g h).countFrame)

/-- R162: the turn count steps by one, or not at all, as a 32-bit two's complement number that wraps at its ends. -/
def Obligations.TurnCountStepsByOneAndWraps : Prop :=
  ∀ (m : MotorState) (a cv g : Half) (h : Byte), 51 ≤ m.messageCount.toNat →
    let d : Int := (a.toNat : Int) - (m.angle.toNat : Int)
    let after : Int := (m.decodeFrame a cv g h).roundCount.toInt
    (d > 4096 → after = if m.roundCount.toInt = -2147483648 then 2147483647 else m.roundCount.toInt - 1) ∧
    (d < -4096 → after = if m.roundCount.toInt = 2147483647 then -2147483648 else m.roundCount.toInt + 1) ∧
    (-4096 ≤ d → d ≤ 4096 → after = m.roundCount.toInt)

/-- R164, R96: the division by -5 truncates toward zero, and its result fits. -/
def Obligations.GivenCurrentTruncatesTowardZero : Prop :=
  ∀ g : Half,
    (0 ≤ g.toInt → (givenCurrentOf g).toInt = -(g.toInt / 5)) ∧
    (g.toInt < 0 → (givenCurrentOf g).toInt = -g.toInt / 5) ∧
    (givenCurrentOf g).toInt.natAbs ≤ 6553

/-- R163: `totalAngle` is the mathematical value modulo 2^32, exact when that lies in the range of an `i32`; it is a left
shift by 13 and two additions; and with angles in 0 to 8191 it is exact for -262143 to 262143 turns, at -262144 turns only
when `angle >= offsetAngle`, and never above 262144 or below -262144 turns. (At 262144 turns the rule says "never"; the
exact value is in range there when `angle < offsetAngle`, so that one case is left to the first clause: NOTES.md.) -/
def Obligations.UnwrappedAngleIsExactInRange : Prop :=
  ∀ (rc : Word) (a o : Half),
    let exact : Int := rc.toInt * 8192 + (a.toNat : Int) - (o.toNat : Int)
    let u := unwrappedAngle rc a o
    (2 ^ 32 : Int) ∣ u.toInt - exact ∧
    (u.toInt = exact ↔ -2147483648 ≤ exact ∧ exact ≤ 2147483647) ∧
    u = (rc <<< 13) + a.setWidth 32 - o.setWidth 32 ∧
    (a.toNat ≤ 8191 → o.toNat ≤ 8191 →
      (-262143 ≤ rc.toInt → rc.toInt ≤ 262143 → u.toInt = exact) ∧
      (rc.toInt = -262144 → (u.toInt = exact ↔ o.toNat ≤ a.toNat)) ∧
      (262144 < rc.toInt ∨ rc.toInt < -262144 → u.toInt ≠ exact))

/-- R102: between two successive steady-state decodes with raw angles in 0 to 8191 and no 32-bit wrap, `totalAngle` moves by
the shortest step from one raw angle to the next, which lies in -4096 to 4096. -/
def Obligations.UnwrapIsContinuous : Prop :=
  ∀ (m : MotorState) (a1 a2 cv1 cv2 g1 g2 : Half) (h1 h2 : Byte),
    let m1 := m.decodeFrame a1 cv1 g1 h1
    let m2 := m1.decodeFrame a2 cv2 g2 h2
    let step : Int := (a2.toNat : Int) - (a1.toNat : Int)
    let moved : Int := m2.totalAngle.toInt - m1.totalAngle.toInt
    51 ≤ m.messageCount.toNat → 51 ≤ m1.messageCount.toNat → a1.toNat ≤ 8191 → a2.toNat ≤ 8191 →
    m1.ExactTotal → m2.ExactTotal →
    (-4096 ≤ step → step ≤ 4096 → moved = step) ∧ (step > 4096 → moved = step - 8192) ∧
      (step < -4096 → moved = step + 8192) ∧ -4096 ≤ moved ∧ moved ≤ 4096

/-- R103: at the first steady-state decode the turn count is 0 before the detector, `lastAngle` receives the zero reference,
and `totalAngle` is the shortest step from the zero reference to the new raw angle. The premises on the slot are the warm-up
invariant (StepKeepsWarmUpInv, ResetSatisfiesWarmUpInv). -/
def Obligations.FirstSteadyAngleIsTheShortestStep : Prop :=
  ∀ (m : MotorState) (a cv g : Half) (h : Byte),
    m.WarmUpClear → m.Referenced → m.messageCount.toNat = 51 → a.toNat ≤ 8191 → m.offsetAngle.toNat ≤ 8191 →
    let d : Int := (a.toNat : Int) - (m.offsetAngle.toNat : Int)
    let total : Int := (m.decodeFrame a cv g h).totalAngle.toInt
    m.roundCount = 0 ∧ (m.decodeFrame a cv g h).lastAngle = m.offsetAngle ∧
    (-4096 ≤ d → d ≤ 4096 → total = d) ∧ (d > 4096 → total = d - 8192) ∧ (d < -4096 → total = d + 8192)

/-- R21, R93, S1: up to 51 frames after reset only `angle`, `offsetAngle` and `messageCount` move, whatever the frames. -/
def Obligations.WarmUpFramesMoveThreeFields : Prop :=
  ∀ frames : List (Half × Half × Half × Byte), frames.length ≤ 51 →
    let m := decodeAll MotorState.reset frames
    m.messageCount.toNat = frames.length ∧ m.offsetAngle = m.angle ∧ m.totalAngle = 0 ∧ m.roundCount = 0 ∧
      m.lastAngle = 0 ∧ m.current = 0 ∧ m.givenCurrent = 0 ∧ m.velocity = 0 ∧ m.hallState = 0 ∧
      ∀ f, frames.getLast? = some f → m.angle = f.1

/-- R100, R71, R75: `MS.RD` answers the ten fields of its slot and changes no register; a slot that does not exist is
answered with zeros. -/
def Obligations.MsRdAnswersTheSlot : Prop :=
  ∀ (s : State) (idx : Byte),
    (∀ m, s.ms[idx.toNat]? = some m →
      exec (.msRd idx) s = .next { s with responses := s.responses ++
        [⟨m.totalAngle, m.roundCount, m.messageCount, m.angle ++ m.lastAngle, m.offsetAngle ++ m.current,
          m.velocity ++ m.givenCurrent, 0#24 ++ m.hallState⟩] }) ∧
    (s.ms.length ≤ idx.toNat →
      exec (.msRd idx) s = .next { s with responses := s.responses ++ [⟨0, 0, 0, 0, 0, 0, 0⟩] })

/-! ## Controller configuration and reading -/

/-- R120, R177: `PID.CFG` on finite operands and an axis of finite registers stores the bits of its operands in six registers
of the axis, a negative limit included (U4), and writes nothing else anywhere; with a NaN or an infinity among them it is
refused (U3, C5; log entry 7). -/
def Obligations.PidCfgWritesSixRegisters : Prop :=
  ∀ (s : State) (idx sub : Byte) (md : Mode) (c : PidController) (mo il gp gi gd : F32),
    s.pid[idx.toNat]? = some c → (sub = 0#8 ∧ md = .position ∨ sub = 1#8 ∧ md = .incremental) →
    (allFinite c [mo, il, gp, gi, gd] = true → exec (.pidCfg idx sub mo il gp gi gd) s =
      .next { s with
        pid := s.pid.set idx.toNat { c with mode := md, maxOut := mo, intLim := il, p := gp, i := gi, d := gd }
        responses := s.responses ++ [⟨0, 0, 0, 0, 0, 0, 0⟩] }) ∧
    (allFinite c [mo, il, gp, gi, gd] = false →
      exec (.pidCfg idx sub mo il gp gi gd) s = .refused (.nonFinite "PID.CFG"))

/-- R121, R24, R81, R177: `PID.GAINS` on finite operands and an axis of finite registers stores the bits of its operands in
the three gains of the axis, and writes nothing else anywhere; with a NaN or an infinity among them it is refused (U3,
C5). That U3 and C5 go before the "any bit pattern" of R24 is the model's reading (log entry 7). -/
def Obligations.PidGainsWritesThreeRegisters : Prop :=
  ∀ (s : State) (idx : Byte) (c : PidController) (gp gi gd : F32), s.pid[idx.toNat]? = some c →
    (allFinite c [gp, gi, gd] = true → exec (.pidGains idx gp gi gd) s =
      .next { s with
        pid := s.pid.set idx.toNat { c with p := gp, i := gi, d := gd }
        responses := s.responses ++ [⟨0, 0, 0, 0, 0, 0, 0⟩] }) ∧
    (allFinite c [gp, gi, gd] = false → exec (.pidGains idx gp gi gd) s = .refused (.nonFinite "PID.GAINS"))

/-- R122, R81, R177: `PID.LIM` on finite operands and an axis of finite registers stores the bits of its operands in the two
void limits of the axis, a negative one included (U4), and writes nothing else anywhere; with a NaN or an infinity among them
it is refused (U3, C5; log entry 7). -/
def Obligations.PidLimWritesTwoRegisters : Prop :=
  ∀ (s : State) (idx : Byte) (c : PidController) (me db : F32), s.pid[idx.toNat]? = some c →
    (allFinite c [me, db] = true → exec (.pidLim idx me db) s =
      .next { s with
        pid := s.pid.set idx.toNat { c with maxErr := me, deadband := db }
        responses := s.responses ++ [⟨0, 0, 0, 0, 0, 0, 0⟩] }) ∧
    (allFinite c [me, db] = false → exec (.pidLim idx me db) s = .refused (.nonFinite "PID.LIM"))

/-- R142, R72: `PID.RD` answers the stored bits of the register `sub` selects, and changes no register. -/
def Obligations.PidRdAnswersTheRegister : Prop :=
  ∀ (s : State) (idx sub : Byte) (c : PidController), s.pid[idx.toNat]? = some c →
    (∀ w : Word,
      [c.p, c.i, c.d, c.maxOut, c.intLim, c.maxErr, c.deadband, (if c.mode = .position then 0#32 else 1#32),
        c.setHist.cur, c.setHist.prev, c.setHist.prev2, c.getHist.cur, c.getHist.prev, c.getHist.prev2,
        c.errHist.cur, c.errHist.prev, c.errHist.prev2, c.iOut, c.posOut, c.incOut][sub.toNat]? = some w →
      exec (.pidRd idx sub) s = .next { s with responses := s.responses ++ [⟨w, 0, 0, 0, 0, 0, 0⟩] }) ∧
    (20 ≤ sub.toNat →
      exec (.pidRd idx sub) s = .next { s with responses := s.responses ++ [⟨0, 0, 0, 0, 0, 0, 0⟩] })

/-- R75: a request whose index names no axis, or no slot, changes no register and is answered with zeros. -/
def Obligations.IndexOutOfRangeIsIgnored : Prop :=
  ∀ (s : State) (idx sub : Byte) (u v w x y : F32),
    let ignored : StepOutcome := .next { s with responses := s.responses ++ [⟨0, 0, 0, 0, 0, 0, 0⟩] }
    (s.pid.length ≤ idx.toNat →
      exec (.pidCfg idx sub u v w x y) s = ignored ∧ exec (.pidGains idx u v w) s = ignored ∧
      exec (.pidLim idx u v) s = ignored ∧ exec (.pidCalc idx sub u v) s = ignored ∧
      exec (.pidCalcFb idx sub u v w) s = ignored ∧ exec (.pidRd idx sub) s = ignored) ∧
    (s.ms.length ≤ idx.toNat → exec (.msRd idx) s = ignored)

/-- R74: a request with a reserved `sub` changes no register and is answered with zeros, as a voided computation is. -/
def Obligations.ReservedSubIsIgnored : Prop :=
  ∀ (s : State) (idx sub : Byte) (u v w x y : F32),
    let ignored : StepOutcome := .next { s with responses := s.responses ++ [⟨0, 0, 0, 0, 0, 0, 0⟩] }
    (2 ≤ sub.toNat → exec (.pidCfg idx sub u v w x y) s = ignored) ∧
    (3 ≤ sub.toNat → exec (.pidCalc idx sub u v) s = ignored ∧ exec (.pidCalcFb idx sub u v w) s = ignored) ∧
    (20 ≤ sub.toNat → exec (.pidRd idx sub) s = ignored) ∧
    ∀ n : Nat, .next (s.commit n none) = ignored

/-- R51: the configuration operations are idempotent, and a read changes no register and answers the same when repeated. A
configuration operation that completes completes again; where it does not complete is log entry 7 (R177, U3). -/
def Obligations.ConfigurationAndReadsRepeat : Prop :=
  ∀ (s : State) (i : Instr),
    (match i with
      | .pidCfg .. | .pidGains .. | .pidLim .. =>
        ∀ t, exec i s = .next t → ∃ u, exec i t = .next u ∧ u.pid = t.pid ∧ u.ms = t.ms
      | .pidRd .. | .msRd .. =>
        ∃ t u answer, exec i s = .next t ∧ exec i t = .next u ∧ t.pid = s.pid ∧ t.ms = s.ms ∧
          u.pid = s.pid ∧ u.ms = s.ms ∧ t.responses = s.responses ++ [answer] ∧
          u.responses = s.responses ++ [answer, answer]
      | _ => True)

/-! ## Computing -/

/-- R124 to R127: the error is setpoint minus measurement, with at most one period added or removed, on strict tests of the
error of step 1. -/
def Obligations.ErrorIsFormedAndRewrappedOnce : Prop :=
  ∀ (nan : Nat → F32) (m sp : F32),
    let e := fsub (nan 0) sp m
    formError nan .none m sp = e ∧
    formError nan .rotary12bit m sp =
      (if flt e 0xC5FFF800#32 then fadd (nan 1) e 0x467FFC00#32
        else if fgt e 0x45FFF800#32 then fsub (nan 1) e 0x467FFC00#32 else e) ∧
    formError nan .degrees m sp =
      (if flt e 0xC3340000#32 then fadd (nan 1) e 0x43B40000#32
        else if fgt e 0x43340000#32 then fsub (nan 1) e 0x43B40000#32 else e)

/-- U5, R144: operands that are finite never make an error that is a NaN. -/
def Obligations.FormedErrorIsNoNaN : Prop :=
  ∀ (nan : Nat → F32) (dom : ErrorDomain) (m sp : F32), isFinite m = true → isFinite sp = true →
    isNaN (formError nan dom m sp) = false

/-- U5: the free value of a NaN is a NaN (log entry 4). -/
def Obligations.FreeNanIsANaN : Prop := ∀ k site : Nat, isNaN (nanAt k site) = true

/-- R128, R129, R130: a computation whose rewrapped error is above a max-error limit that is not 0, or below a deadband that
is not 0, answers +0.0 and changes no register; both comparisons are strict. -/
def Obligations.VoidedComputeChangesNoRegister : Prop :=
  ∀ (s : State) (idx sub : Byte) (dom : ErrorDomain) (c : PidController) (m sp fb : F32),
    s.pid[idx.toNat]? = some c → domainOfSub sub = some dom →
    let e := formError (nanAt s.opCount) dom m sp
    let voided : StepOutcome := .next { s with responses := s.responses ++ [⟨0, 0, 0, 0, 0, 0, 0⟩] }
    (fne0 c.maxErr = true ∧ fgt (fabs e) c.maxErr = true ∨ fne0 c.deadband = true ∧ flt (fabs e) c.deadband = true) →
    (inDomain c [m, sp] = true → exec (.pidCalc idx sub m sp) s = voided) ∧
    (c.mode = .position → inDomain c [m, sp, fb] = true → exec (.pidCalcFb idx sub m sp fb) s = voided)

/-- R123, R131, R132, R135, R136: a successful computation in position mode. The primitives stand in the order of R172. -/
def Obligations.PositionComputeFollowsItsLaw : Prop :=
  ∀ (s : State) (idx sub : Byte) (dom : ErrorDomain) (c : PidController) (m sp : F32),
    s.pid[idx.toNat]? = some c → domainOfSub sub = some dom → c.mode = .position → inDomain c [m, sp] = true →
    let nan := nanAt s.opCount
    let e := formError nan dom m sp
    voids c e = false →
    let pOut := fmul (nan 2) c.p e
    let iOut := clamp (fadd (nan 4) c.iOut (fmul (nan 3) c.i e)) c.intLim
    let dOut := fmul (nan 6) c.d (fsub (nan 5) e c.errHist.prev)
    let out := clamp (fadd (nan 8) (fadd (nan 7) pOut iOut) dOut) c.maxOut
    exec (.pidCalc idx sub m sp) s =
      .next { s with
        pid := s.pid.set idx.toNat { c with
          setHist := ⟨sp, sp, c.setHist.prev⟩, getHist := ⟨m, m, c.getHist.prev⟩, errHist := ⟨e, e, c.errHist.prev⟩
          iOut := iOut, posOut := out }
        responses := s.responses ++ [⟨out, 0, 0, 0, 0, 0, 0⟩] }

/-- R123, R131, R133, R135, R136: a successful computation in incremental mode. The primitives stand in the order of
R172. -/
def Obligations.IncrementalComputeFollowsItsLaw : Prop :=
  ∀ (s : State) (idx sub : Byte) (dom : ErrorDomain) (c : PidController) (m sp : F32),
    s.pid[idx.toNat]? = some c → domainOfSub sub = some dom → c.mode = .incremental → inDomain c [m, sp] = true →
    let nan := nanAt s.opCount
    let e := formError nan dom m sp
    voids c e = false →
    let pOut := fmul (nan 3) c.p (fsub (nan 2) e c.errHist.prev)
    let iOut := fmul (nan 4) c.i e
    let dOut := fmul (nan 8) c.d
      (fadd (nan 7) (fsub (nan 6) e (fmul (nan 5) 0x40000000#32 c.errHist.prev)) c.errHist.prev2)
    let delta := clamp (fadd (nan 10) (fadd (nan 9) pOut iOut) dOut) c.intLim
    let out := clamp (fadd (nan 11) c.incOut delta) c.maxOut
    exec (.pidCalc idx sub m sp) s =
      .next { s with
        pid := s.pid.set idx.toNat { c with
          setHist := ⟨sp, sp, c.setHist.prev⟩, getHist := ⟨m, m, c.getHist.prev⟩, errHist := ⟨e, e, c.errHist.prev⟩
          iOut := iOut, incOut := out }
        responses := s.responses ++ [⟨out, 0, 0, 0, 0, 0, 0⟩] }

/-- R140, R131, R135: a successful computation of the feedback variant, on an axis in position mode (R141). -/
def Obligations.FeedbackComputeFollowsItsLaw : Prop :=
  ∀ (s : State) (idx sub : Byte) (dom : ErrorDomain) (c : PidController) (m sp fb : F32),
    s.pid[idx.toNat]? = some c → domainOfSub sub = some dom → c.mode = .position → inDomain c [m, sp, fb] = true →
    let nan := nanAt s.opCount
    let e := formError nan dom m sp
    voids c e = false →
    let pOut := fmul (nan 2) c.p e
    let iOut := if flt (fabs c.i) 0x3A83126F#32 then 0x00000000#32
      else clamp (fadd (nan 4) c.iOut (fmul (nan 3) c.i e)) c.intLim
    let dOut := fneg (fdiv (nan 6) (fmul (nan 5) c.d fb) 0x42C80000#32)
    let out := clamp (fadd (nan 8) (fadd (nan 7) pOut iOut) dOut) c.maxOut
    exec (.pidCalcFb idx sub m sp fb) s =
      .next { s with
        pid := s.pid.set idx.toNat { c with
          setHist := ⟨sp, sp, c.setHist.prev⟩, getHist := ⟨m, m, c.getHist.prev⟩, errHist := ⟨e, e, c.errHist.prev⟩
          iOut := iOut, posOut := out }
        responses := s.responses ++ [⟨out, 0, 0, 0, 0, 0, 0⟩] }

/-- R177, R141, U3, U4, U7: a compute that the spec leaves unspecified is refused, under the name of its reason (the names are the
model's: log entries 5 and 6). -/
def Obligations.UnspecifiedComputeIsRefused : Prop :=
  ∀ (s : State) (idx sub : Byte) (c : PidController) (m sp fb : F32),
    s.pid[idx.toNat]? = some c → sub.toNat < 3 →
    (allFinite c [m, sp] = false → exec (.pidCalc idx sub m sp) s = .refused (.nonFinite "PID.CALC")) ∧
    (allFinite c [m, sp] = true → limitsOk c = false →
      exec (.pidCalc idx sub m sp) s = .refused (.negativeLimit "PID.CALC")) ∧
    (c.mode = .incremental → exec (.pidCalcFb idx sub m sp fb) s = .refused .feedbackInIncrementalMode) ∧
    (c.mode = .position → allFinite c [m, sp, fb] = false →
      exec (.pidCalcFb idx sub m sp fb) s = .refused (.nonFinite "PID.CALCFB")) ∧
    (c.mode = .position → allFinite c [m, sp, fb] = true → limitsOk c = false →
      exec (.pidCalcFb idx sub m sp fb) s = .refused (.negativeLimit "PID.CALCFB"))

/-- R101, R177, R141, R194: exactly the computes and the configuration operations outside the specified domain do not
complete. For the configuration operations that domain is of finite operands and registers (U3), and a negative limit is
within it (U4): log entry 7. -/
def Obligations.OnlyUnspecifiedOperationsStop : Prop :=
  ∀ (s : State) (i : Instr), Completes (exec i s) ↔
    (match i with
      | .pidCfg idx sub mo il gp gi gd =>
        ∀ c, s.pid[idx.toNat]? = some c → sub.toNat < 2 → allFinite c [mo, il, gp, gi, gd] = true
      | .pidGains idx gp gi gd => ∀ c, s.pid[idx.toNat]? = some c → allFinite c [gp, gi, gd] = true
      | .pidLim idx me db => ∀ c, s.pid[idx.toNat]? = some c → allFinite c [me, db] = true
      | .pidCalc idx sub m sp =>
        ∀ c, s.pid[idx.toNat]? = some c → sub.toNat < 3 → inDomain c [m, sp] = true
      | .pidCalcFb idx sub m sp fb =>
        ∀ c, s.pid[idx.toNat]? = some c → sub.toNat < 3 → c.mode = .position ∧ inDomain c [m, sp, fb] = true
      | _ => True)

/-- R144, R136, R193: a computation in the domain completes, and what it answers and stores is a NaN (U5) or within the
limits: the output within `MAXOUT`, `IOUT` of the accumulating laws within `INTLIM`. -/
def Obligations.ComputeResultsStayWithinLimits : Prop :=
  ∀ (s : State) (idx sub : Byte) (c : PidController) (m sp fb : F32),
    s.pid[idx.toNat]? = some c → sub.toNat < 3 →
    (inDomain c [m, sp] = true → ∃ t out, exec (.pidCalc idx sub m sp) s = .next t ∧
      t.responses = s.responses ++ [⟨out, 0, 0, 0, 0, 0, 0⟩] ∧ BoundedBy out c.maxOut ∧
      (t.pid = s.pid ∨ ∃ c', t.pid = s.pid.set idx.toNat c' ∧
        (c.mode = .position → BoundedBy c'.iOut c.intLim ∧ c'.posOut = out) ∧
        (c.mode = .incremental → c'.incOut = out))) ∧
    (c.mode = .position → inDomain c [m, sp, fb] = true → ∃ t out, exec (.pidCalcFb idx sub m sp fb) s = .next t ∧
      t.responses = s.responses ++ [⟨out, 0, 0, 0, 0, 0, 0⟩] ∧ BoundedBy out c.maxOut ∧
      (t.pid = s.pid ∨ ∃ c', t.pid = s.pid.set idx.toNat c' ∧ BoundedBy c'.iOut c.intLim ∧ c'.posOut = out))

/-- R137 (a): an axis still at its reset values answers +0.0, and its triples are written and shifted all the same (for an
error that does not overflow: see NOTES.md). -/
def Obligations.UnconfiguredAxisAnswersZero : Prop :=
  ∀ (s : State) (idx sub : Byte) (dom : ErrorDomain) (m sp : F32),
    s.pid[idx.toNat]? = some PidController.reset → domainOfSub sub = some dom → isFinite m = true →
    isFinite sp = true →
    let e := formError (nanAt s.opCount) dom m sp
    isFinite e = true →
    exec (.pidCalc idx sub m sp) s =
      .next { s with
        pid := s.pid.set idx.toNat { PidController.reset with
          setHist := ⟨sp, sp, 0⟩, getHist := ⟨m, m, 0⟩, errHist := ⟨e, e, 0⟩ }
        responses := s.responses ++ [⟨0, 0, 0, 0, 0, 0, 0⟩] }

/-! ## Frames of all operations -/

/-- R199, R10, R22, R23: a `FRAME` writes at most the slot it is routed to and no controller, and answers nothing; an
operation of the H port writes no slot and at most the axis it names, and answers once; the reads write nothing; and no
operation changes a parameter or what the ports present. -/
def Obligations.OperationsWriteOnlyTheirOwnRecord : Prop :=
  ∀ (s t : State) (i : Instr), exec i s = .next t →
    t.idWidth = s.idWidth ∧ t.idBase = s.idBase ∧ t.tPort = s.tPort ∧ t.hPort = s.hPort ∧ t.opCount = s.opCount ∧
    t.ms.length = s.ms.length ∧ t.pid.length = s.pid.length ∧
    (match i with
      | .frame id _ _ _ _ =>
        t.pid = s.pid ∧ t.responses = s.responses ∧ ∀ n, id ≠ s.idBase + n → t.ms[n]? = s.ms[n]?
      | j => t.ms = s.ms ∧ (∃ answer, t.responses = s.responses ++ [answer]) ∧
        ∀ n, requestIndex j ≠ some n → t.pid[n]? = s.pid[n]?) ∧
    (match i with
      | .pidRd .. | .msRd .. => t.pid = s.pid
      | _ => True)

/-- R34, R135: an operation leaves the history and the accumulators of an axis as they are, unless it is a computation on
that axis; then it may record its own setpoint, measurement and rewrapped error, shift each triple once, and write the accumulators,
and nothing else. -/
def Obligations.HistoryShiftsOncePerComputation : Prop :=
  ∀ (s t : State) (i : Instr), exec i s = .next t → ∀ (n : Nat) (c c' : PidController),
    s.pid[n]? = some c → t.pid[n]? = some c' →
    (c'.setHist = c.setHist ∧ c'.getHist = c.getHist ∧ c'.errHist = c.errHist ∧ c'.iOut = c.iOut ∧
      c'.posOut = c.posOut ∧ c'.incOut = c.incOut) ∨
    ∃ (idx sub : Byte) (dom : ErrorDomain) (m sp : F32), idx.toNat = n ∧ domainOfSub sub = some dom ∧
      (i = .pidCalc idx sub m sp ∨ ∃ fb, i = .pidCalcFb idx sub m sp fb) ∧
      let e := formError (nanAt s.opCount) dom m sp
      c'.setHist = ⟨sp, sp, c.setHist.prev⟩ ∧ c'.getHist = ⟨m, m, c.getHist.prev⟩ ∧
      c'.errHist = ⟨e, e, c.errHist.prev⟩ ∧ c'.p = c.p ∧ c'.i = c.i ∧ c'.d = c.d ∧ c'.maxOut = c.maxOut ∧
      c'.intLim = c.intLim ∧ c'.maxErr = c.maxErr ∧ c'.deadband = c.deadband ∧ c'.mode = c.mode

/-! ## Invariants -/

/-- R6, R15, R18, R30: every step keeps the invariant of the block. -/
def Obligations.StepKeepsInv : Prop := ∀ s t : State, s.Inv → step s = .next t → t.Inv

/-- R6, R39: the block after reset satisfies the invariant, at every legal choice of the parameters. -/
def Obligations.ResetSatisfiesInv : Prop := ∀ q : Params, q.Legal → (State.resetWith q).Inv

/-- R21, R226: every step keeps the warm-up invariant, as long as no slot is about to wrap `messageCount`. -/
def Obligations.StepKeepsWarmUpInv : Prop :=
  ∀ s t : State, s.WarmUpInv → s.NoWrapAhead → step s = .next t → t.WarmUpInv

/-- R21, R39: the block after reset satisfies the warm-up invariant, and no slot is about to wrap. -/
def Obligations.ResetSatisfiesWarmUpInv : Prop :=
  ∀ q : Params, (State.resetWith q).WarmUpInv ∧ (State.resetWith q).NoWrapAhead

/-! ## Binary32 -/

/-- R171: addition and subtraction of finite values are the exact result rounded once; an exact 0 is +0.0 unless both
addends are negative zeros. The sign of an exact 0 and where the infinities begin are IEEE 754's (log entry 10). -/
def Obligations.AdditionRoundsOnce : Prop :=
  ∀ nan a b : F32, isFinite a = true → isFinite b = true →
    (units a + units b ≠ 0 → RoundedOnce (fadd nan a b) (units a + units b) 1) ∧
    (units a + units b = 0 → fadd nan a b = if signOf a && signOf b then 0x80000000#32 else 0#32) ∧
    (units a - units b ≠ 0 → RoundedOnce (fsub nan a b) (units a - units b) 1) ∧
    (units a - units b = 0 → fsub nan a b = if signOf a && !signOf b then 0x80000000#32 else 0#32)

/-- R171: multiplication of finite values is the exact product rounded once, with the sign of the product. The sign of
a zero product and where the infinities begin are IEEE 754's (log entry 10). -/
def Obligations.MultiplicationRoundsOnce : Prop :=
  ∀ nan a b : F32, isFinite a = true → isFinite b = true →
    RoundedOnce (fmul nan a b) (units a * units b) (2 ^ 149) ∧
    signOf (fmul nan a b) = (signOf a != signOf b)

/-- R171: division of a finite value by one that is not a zero is the exact quotient rounded once, with the sign of the
quotient. The sign of a zero quotient and where the infinities begin are IEEE 754's (log entry 10). -/
def Obligations.DivisionRoundsOnce : Prop :=
  ∀ nan a b : F32, isFinite a = true → isFinite b = true → isZero b = false →
    RoundedOnce (fdiv nan a b) (units a * 2 ^ 149) (units b) ∧
    signOf (fdiv nan a b) = (signOf a != signOf b)

/-- R173: the comparisons compare values; they are false on a NaN; an infinity is beyond every finite value, and the two
are as far apart as two values can be; and `fne0` is false for the two zeros only. -/
def Obligations.ComparisonsCompareValues : Prop :=
  ∀ a b : F32,
    (∀ x y : F32, fgt x y = flt y x) ∧
    (isNaN a = true ∨ isNaN b = true → flt a b = false) ∧
    (isFinite a = true → isFinite b = true → (flt a b = true ↔ units a < units b)) ∧
    (isFinite a = true → flt a (infinity false) = true ∧ flt (infinity false) a = false ∧
      flt (infinity true) a = true ∧ flt a (infinity true) = false) ∧
    (∀ m n : Bool, flt (infinity m) (infinity n) = (m && !n)) ∧
    (fne0 a = true ↔ a ≠ 0x00000000#32 ∧ a ≠ 0x80000000#32)

/-- R174: `fabs` clears the sign bit, `fneg` inverts it, every other bit stays; on a finite value they are the magnitude
and the negation. -/
def Obligations.SignOperationsAreExact : Prop :=
  ∀ a : F32,
    (∀ k < 31, (fabs a).getLsbD k = a.getLsbD k ∧ (fneg a).getLsbD k = a.getLsbD k) ∧
    signOf (fabs a) = false ∧ signOf (fneg a) = !signOf a ∧
    units (fabs a) = (unitsMag a : Int) ∧ units (fneg a) = -units a

/-- R175: on a limit that is finite and not negative, and a value that is not a NaN, the clamp is the member of the closed
range nearest to the value. -/
def Obligations.ClampIsTheNearestMember : Prop :=
  ∀ x limit : F32, isFinite limit = true → isNegative limit = false → isNaN x = false →
    isFinite (clamp x limit) = true ∧
    (isFinite x = true → units (clamp x limit) = max (-(units limit)) (min (units x) (units limit))) ∧
    (x = infinity false → clamp x limit = limit) ∧ (x = infinity true → clamp x limit = fneg limit) ∧
    (isFinite x = true → -(units limit) ≤ units x → units x ≤ units limit → clamp x limit = x)
end

