-- ==== Sys2Proof/Laws/Fp.lean ====
section
/-!
SUPPORT. What the parts of the binary32 arithmetic do, once each: the fields of a pattern, the one rounding, and the four
operations on finite patterns.
-/

namespace Sys2Proof.Machine

/-- A pattern is a NaN, an infinity or finite (R170). -/
theorem isNaN_or_isInf_or_isFinite (a : F32) : isNaN a = true ∨ isInf a = true ∨ isFinite a = true := by
  unfold isNaN isInf isFinite
  by_cases h : expOf a = 255 <;> by_cases h' : fracOf a = 0 <;> simp [h, h']

theorem isNaN_of_isFinite {a : F32} (h : isFinite a = true) : isNaN a = false := by
  simp only [isFinite, bne_iff_ne, ne_eq] at h
  simp [isNaN, h]

theorem isInf_of_isFinite {a : F32} (h : isFinite a = true) : isInf a = false := by
  simp only [isFinite, bne_iff_ne, ne_eq] at h
  simp [isInf, h]

theorem expOf_eq (a : F32) : expOf a = a.toNat / 2 ^ 23 % 2 ^ 8 := by
  simp [expOf, BitVec.extractLsb'_toNat, Nat.shiftRight_eq_div_pow]

theorem fracOf_eq (a : F32) : fracOf a = a.toNat % 2 ^ 23 := by
  simp [fracOf, BitVec.extractLsb'_toNat]

theorem withSign_toNat {neg : Bool} {mag : Nat} (h : mag < 2 ^ 31) :
    (withSign neg mag).toNat = (if neg then 2 ^ 31 else 0) + mag := by
  cases neg <;> simp [withSign] <;> omega

theorem signOf_withSign {neg : Bool} {mag : Nat} (h : mag < 2 ^ 31) : signOf (withSign neg mag) = neg := by
  rw [signOf, BitVec.msb_eq_decide, withSign_toNat h]
  cases neg <;> simp <;> omega

theorem expOf_withSign {neg : Bool} {mag : Nat} (h : mag < 2 ^ 31) : expOf (withSign neg mag) = mag / 2 ^ 23 := by
  rw [expOf_eq, withSign_toNat h]
  cases neg <;> simp <;> omega

theorem fracOf_withSign {neg : Bool} {mag : Nat} (h : mag < 2 ^ 31) : fracOf (withSign neg mag) = mag % 2 ^ 23 := by
  rw [fracOf_eq, withSign_toNat h]
  cases neg <;> simp <;> omega

/-- Magnitude bits below those of an infinity make a finite pattern. -/
theorem isFinite_withSign {neg : Bool} {mag : Nat} (h : mag < 0x7F800000) : isFinite (withSign neg mag) = true := by
  have : expOf (withSign neg mag) ≠ 255 := by
    rw [expOf_withSign (by omega)]; omega
  simpa [isFinite] using this

/-- The magnitude of the pattern `e × 2^23 + m`, where `m` has 24 bits unless `e` is 0; a carry into `m = 2^24` is
absorbed. -/
theorem unitsMag_withSign {neg : Bool} {e m : Nat} (hm : m ≤ 2 ^ 24) (he : e = 0 ∨ 2 ^ 23 ≤ m)
    (h : e * 2 ^ 23 + m < 0x7F800000) : unitsMag (withSign neg (e * 2 ^ 23 + m)) = m * 2 ^ e := by
  rw [unitsMag, expOf_withSign (by omega), fracOf_withSign (by omega)]
  rcases Nat.lt_or_ge m (2 ^ 23) with hlt | hge
  · have e0 : e = 0 := by omega
    subst e0
    rw [if_pos (by omega), Nat.mod_eq_of_lt (by omega)]
    simp
  · rcases Nat.lt_or_ge m (2 ^ 24) with hlt | hge'
    · have hd : (e * 2 ^ 23 + m) / 2 ^ 23 = e + 1 := by omega
      have hr : (e * 2 ^ 23 + m) % 2 ^ 23 = m - 2 ^ 23 := by omega
      rw [hd, hr, if_neg (by omega), Nat.add_sub_cancel, Nat.add_sub_cancel' hge]
    · have hm' : m = 2 ^ 24 := by omega
      have hd : (e * 2 ^ 23 + m) / 2 ^ 23 = e + 2 := by omega
      have hr : (e * 2 ^ 23 + m) % 2 ^ 23 = 0 := by omega
      rw [hd, hr, if_neg (by omega), hm']
      have : e + 2 - 1 = e + 1 := by omega
      rw [this, Nat.pow_succ]
      ring

/-- The rounding of a fraction: the result is within half of it, and even where it is just half away. -/
theorem roundNatEven_spec (n : Nat) {d : Nat} (hd : 0 < d) :
    2 * n ≤ 2 * (roundNatEven n d * d) + d ∧ 2 * (roundNatEven n d * d) ≤ 2 * n + d ∧
    (2 * n = 2 * (roundNatEven n d * d) + d → roundNatEven n d % 2 = 0) ∧
    (2 * (roundNatEven n d * d) = 2 * n + d → roundNatEven n d % 2 = 0) := by
  have h1 := Nat.div_add_mod n d
  have h2 := Nat.mod_lt n hd
  rw [Nat.mul_comm] at h1
  unfold roundNatEven
  simp only
  generalize n / d = q at *
  generalize n % d = r at *
  split
  · rename_i h
    rw [Nat.add_mul, Nat.one_mul]
    generalize q * d = x at *
    omega
  · rename_i h
    generalize q * d = x at *
    omega

/-- What `roundUnits` answers: a pattern of the sign with fewer magnitude bits than an infinity, or the infinity. -/
theorem roundUnits_cases (neg : Bool) (num den : Nat) :
    let e := Nat.log2 (num / den) - 23
    let bits := e * 2 ^ 23 + roundNatEven num (den * 2 ^ e)
    (bits < 0x7F800000 ∧ roundUnits neg num den = withSign neg bits) ∨
    (0x7F800000 ≤ bits ∧ roundUnits neg num den = infinity neg) := by
  intro e bits
  rcases Nat.lt_or_ge bits 0x7F800000 with h | h
  · exact .inl ⟨h, if_pos h⟩
  · exact .inr ⟨h, if_neg (Nat.not_lt.2 h)⟩

/-- The sign of a rounded value is the sign asked for. -/
theorem signOf_roundUnits (neg : Bool) (num den : Nat) : signOf (roundUnits neg num den) = neg := by
  rcases roundUnits_cases neg num den with ⟨h, e⟩ | ⟨-, e⟩ <;> rw [e]
  · exact signOf_withSign (by omega)
  · exact signOf_withSign (by omega)

/-- A rounded value is no NaN. -/
theorem isNaN_roundUnits (neg : Bool) (num den : Nat) : isNaN (roundUnits neg num den) = false := by
  rcases roundUnits_cases neg num den with ⟨h, e⟩ | ⟨-, e⟩ <;> rw [e]
  · exact isNaN_of_isFinite (isFinite_withSign h)
  · cases neg <;> decide

/-- R171 on finite addends. -/
theorem fadd_of_isFinite {nan a b : F32} (ha : isFinite a = true) (hb : isFinite b = true) :
    fadd nan a b = if units a + units b = 0 then withSign (signOf a && signOf b) 0
      else roundUnits (decide (units a + units b < 0)) (units a + units b).natAbs 1 := by
  simp [fadd, isNaN_of_isFinite ha, isNaN_of_isFinite hb, isInf_of_isFinite ha, isInf_of_isFinite hb]

/-- R171 on finite factors. -/
theorem fmul_of_isFinite {nan a b : F32} (ha : isFinite a = true) (hb : isFinite b = true) :
    fmul nan a b = roundUnits (signOf a != signOf b) (unitsMag a * unitsMag b) (2 ^ 149) := by
  simp [fmul, isNaN_of_isFinite ha, isNaN_of_isFinite hb, isInf_of_isFinite ha, isInf_of_isFinite hb]

/-- R171 on a finite dividend and a finite divisor that is not a zero. -/
theorem fdiv_of_isFinite {nan a b : F32} (ha : isFinite a = true) (hb : isFinite b = true) (hz : isZero b = false) :
    fdiv nan a b = roundUnits (signOf a != signOf b) (unitsMag a * 2 ^ 149) (unitsMag b) := by
  simp [fdiv, isNaN_of_isFinite ha, isNaN_of_isFinite hb, isInf_of_isFinite ha, isInf_of_isFinite hb, hz]

/-! ### `fneg` and `fabs` (R174) -/

theorem signMask_getLsbD {k : Nat} (h : k < 31) : (0x80000000#32).getLsbD k = false := by
  revert k; decide

theorem magnitudeMask_getLsbD {k : Nat} (h : k < 31) : (0x7FFFFFFF#32).getLsbD k = true := by
  revert k; decide

@[simp] theorem signOf_fneg (a : F32) : signOf (fneg a) = !signOf a := by
  have : (0x80000000#32).msb = true := by decide
  rw [signOf, fneg, BitVec.msb_xor, this, Bool.xor_true, signOf]

@[simp] theorem signOf_fabs (a : F32) : signOf (fabs a) = false := by
  have : (0x7FFFFFFF#32).msb = false := by decide
  rw [signOf, fabs, BitVec.msb_and, this, Bool.and_false]

@[simp] theorem expOf_fneg (a : F32) : expOf (fneg a) = expOf a := by
  unfold expOf
  congr 1
  apply BitVec.eq_of_getLsbD_eq
  intro k hk
  simp only [fneg, BitVec.getLsbD_extractLsb', BitVec.getLsbD_xor, signMask_getLsbD (show 23 + k < 31 by omega),
    Bool.xor_false]

@[simp] theorem fracOf_fneg (a : F32) : fracOf (fneg a) = fracOf a := by
  unfold fracOf
  congr 1
  apply BitVec.eq_of_getLsbD_eq
  intro k hk
  simp only [fneg, BitVec.getLsbD_extractLsb', BitVec.getLsbD_xor, signMask_getLsbD (show 0 + k < 31 by omega),
    Bool.xor_false]

@[simp] theorem expOf_fabs (a : F32) : expOf (fabs a) = expOf a := by
  unfold expOf
  congr 1
  apply BitVec.eq_of_getLsbD_eq
  intro k hk
  simp only [fabs, BitVec.getLsbD_extractLsb', BitVec.getLsbD_and, magnitudeMask_getLsbD (show 23 + k < 31 by omega),
    Bool.and_true]

@[simp] theorem fracOf_fabs (a : F32) : fracOf (fabs a) = fracOf a := by
  unfold fracOf
  congr 1
  apply BitVec.eq_of_getLsbD_eq
  intro k hk
  simp only [fabs, BitVec.getLsbD_extractLsb', BitVec.getLsbD_and, magnitudeMask_getLsbD (show 0 + k < 31 by omega),
    Bool.and_true]

theorem fracOf_lt (a : F32) : fracOf a < 2 ^ 23 := by
  rw [fracOf_eq]; exact Nat.mod_lt _ (by decide)

theorem expOf_lt (a : F32) : expOf a < 2 ^ 8 := by
  rw [expOf_eq]; exact Nat.mod_lt _ (by decide)

/-- A pattern is its three fields (R170). -/
theorem toNat_eq_fields (a : F32) : a.toNat = (if signOf a then 2 ^ 31 else 0) + expOf a * 2 ^ 23 + fracOf a := by
  rw [expOf_eq, fracOf_eq, signOf, BitVec.msb_eq_decide]
  have := a.isLt
  simp only [Nat.add_one_sub_one, decide_eq_true_eq]
  split <;> omega

/-- The 31 bits of magnitude. -/
theorem fabs_toNat (a : F32) : (fabs a).toNat = expOf a * 2 ^ 23 + fracOf a := by
  have h := toNat_eq_fields (fabs a)
  rw [signOf_fabs, expOf_fabs, fracOf_fabs] at h
  simpa using h

@[simp] theorem isFinite_fneg (a : F32) : isFinite (fneg a) = isFinite a := by
  simp only [isFinite, expOf_fneg]

@[simp] theorem isFinite_fabs (a : F32) : isFinite (fabs a) = isFinite a := by
  simp only [isFinite, expOf_fabs]

/-- An infinity is one of two patterns. -/
theorem eq_infinity_of_isInf {a : F32} (h : isInf a = true) : a = infinity (signOf a) := by
  have h0 : (infinity false).toNat = 0x7F800000 := by decide +kernel
  have h1 : (infinity true).toNat = 0xFF800000 := by decide +kernel
  simp only [isInf, Bool.and_eq_true, beq_iff_eq] at h
  have hf := toNat_eq_fields a
  rw [h.1, h.2] at hf
  apply BitVec.eq_of_toNat_eq
  cases hs : signOf a <;> rw [hs] at hf
  · rw [h0, hf]; rfl
  · rw [h1, hf]; rfl

/-- The order of the magnitude bits is the order of the magnitudes. -/
theorem unitsMag_lt_of_fabs_lt {a b : F32} (h : (fabs a).toNat < (fabs b).toNat) : unitsMag a < unitsMag b := by
  rw [fabs_toNat, fabs_toNat] at h
  have hf := fracOf_lt a
  have hf' := fracOf_lt b
  unfold unitsMag
  rcases Nat.lt_or_ge (expOf a) (expOf b) with h1 | h1
  · rw [if_neg (show expOf b ≠ 0 by omega)]
    split
    · exact Nat.lt_of_lt_of_le (show fracOf a < 2 ^ 23 + fracOf b by omega)
        (Nat.le_mul_of_pos_right _ (Nat.two_pow_pos _))
    · have he : 2 ^ expOf a = 2 ^ (expOf a - 1) * 2 := by
        rw [← Nat.pow_succ]; congr 1; omega
      calc (2 ^ 23 + fracOf a) * 2 ^ (expOf a - 1)
          < (2 ^ 23 * 2) * 2 ^ (expOf a - 1) := Nat.mul_lt_mul_of_pos_right (by omega) (Nat.two_pow_pos _)
        _ = 2 ^ 23 * 2 ^ expOf a := by rw [he, Nat.mul_assoc, Nat.mul_comm 2]
        _ ≤ 2 ^ 23 * 2 ^ (expOf b - 1) := Nat.mul_le_mul_left _ (Nat.pow_le_pow_right (by omega) (by omega))
        _ ≤ (2 ^ 23 + fracOf b) * 2 ^ (expOf b - 1) := Nat.mul_le_mul_right _ (by omega)
  · have he : expOf a = expOf b := by omega
    rw [he] at h ⊢
    have hlt : fracOf a < fracOf b := by omega
    split
    · exact hlt
    · exact Nat.mul_lt_mul_of_pos_right (by omega) (Nat.two_pow_pos _)

/-- Equal magnitude bits are equal magnitudes. -/
theorem unitsMag_eq_of_fabs_eq {a b : F32} (h : (fabs a).toNat = (fabs b).toNat) : unitsMag a = unitsMag b := by
  rw [fabs_toNat, fabs_toNat] at h
  have hf := fracOf_lt a
  have hf' := fracOf_lt b
  have he : expOf a = expOf b := by omega
  have hr : fracOf a = fracOf b := by omega
  rw [unitsMag, unitsMag, he, hr]

end Sys2Proof.Machine
end

