-- ==== Sys2Proof/Laws/State.lean ====
section
/-!
SUPPORT. One lemma per field and update of the state, of a controller and of a slot, so that no proof unfolds a record
update.
-/

namespace Sys2Proof.Machine

/-! ### `State.setSlot` -/

@[simp] theorem State.setSlot_idWidth (s : State) (n : Nat) (m : MotorState) : (s.setSlot n m).idWidth = s.idWidth := rfl
@[simp] theorem State.setSlot_idBase (s : State) (n : Nat) (m : MotorState) : (s.setSlot n m).idBase = s.idBase := rfl
@[simp] theorem State.setSlot_ms (s : State) (n : Nat) (m : MotorState) : (s.setSlot n m).ms = s.ms.set n m := rfl
@[simp] theorem State.setSlot_pid (s : State) (n : Nat) (m : MotorState) : (s.setSlot n m).pid = s.pid := rfl
@[simp] theorem State.setSlot_tPort (s : State) (n : Nat) (m : MotorState) : (s.setSlot n m).tPort = s.tPort := rfl
@[simp] theorem State.setSlot_hPort (s : State) (n : Nat) (m : MotorState) : (s.setSlot n m).hPort = s.hPort := rfl
@[simp] theorem State.setSlot_responses (s : State) (n : Nat) (m : MotorState) : (s.setSlot n m).responses = s.responses := rfl
@[simp] theorem State.setSlot_opCount (s : State) (n : Nat) (m : MotorState) : (s.setSlot n m).opCount = s.opCount := rfl

/-! ### `State.setAxis` -/

@[simp] theorem State.setAxis_idWidth (s : State) (n : Nat) (c : PidController) : (s.setAxis n c).idWidth = s.idWidth := rfl
@[simp] theorem State.setAxis_idBase (s : State) (n : Nat) (c : PidController) : (s.setAxis n c).idBase = s.idBase := rfl
@[simp] theorem State.setAxis_ms (s : State) (n : Nat) (c : PidController) : (s.setAxis n c).ms = s.ms := rfl
@[simp] theorem State.setAxis_pid (s : State) (n : Nat) (c : PidController) : (s.setAxis n c).pid = s.pid.set n c := rfl
@[simp] theorem State.setAxis_tPort (s : State) (n : Nat) (c : PidController) : (s.setAxis n c).tPort = s.tPort := rfl
@[simp] theorem State.setAxis_hPort (s : State) (n : Nat) (c : PidController) : (s.setAxis n c).hPort = s.hPort := rfl
@[simp] theorem State.setAxis_responses (s : State) (n : Nat) (c : PidController) : (s.setAxis n c).responses = s.responses := rfl
@[simp] theorem State.setAxis_opCount (s : State) (n : Nat) (c : PidController) : (s.setAxis n c).opCount = s.opCount := rfl

/-! ### `State.respond` -/

@[simp] theorem State.respond_idWidth (s : State) (r : Response) : (s.respond r).idWidth = s.idWidth := rfl
@[simp] theorem State.respond_idBase (s : State) (r : Response) : (s.respond r).idBase = s.idBase := rfl
@[simp] theorem State.respond_ms (s : State) (r : Response) : (s.respond r).ms = s.ms := rfl
@[simp] theorem State.respond_pid (s : State) (r : Response) : (s.respond r).pid = s.pid := rfl
@[simp] theorem State.respond_tPort (s : State) (r : Response) : (s.respond r).tPort = s.tPort := rfl
@[simp] theorem State.respond_hPort (s : State) (r : Response) : (s.respond r).hPort = s.hPort := rfl
@[simp] theorem State.respond_responses (s : State) (r : Response) : (s.respond r).responses = s.responses ++ [r] := rfl
@[simp] theorem State.respond_opCount (s : State) (r : Response) : (s.respond r).opCount = s.opCount := rfl

/-! ### `State.ignore` -/

@[simp] theorem State.ignore_idWidth (s : State) : s.ignore.idWidth = s.idWidth := rfl
@[simp] theorem State.ignore_idBase (s : State) : s.ignore.idBase = s.idBase := rfl
@[simp] theorem State.ignore_ms (s : State) : s.ignore.ms = s.ms := rfl
@[simp] theorem State.ignore_pid (s : State) : s.ignore.pid = s.pid := rfl
@[simp] theorem State.ignore_tPort (s : State) : s.ignore.tPort = s.tPort := rfl
@[simp] theorem State.ignore_hPort (s : State) : s.ignore.hPort = s.hPort := rfl
@[simp] theorem State.ignore_responses (s : State) : s.ignore.responses = s.responses ++ [zeroResponse] := rfl
@[simp] theorem State.ignore_opCount (s : State) : s.ignore.opCount = s.opCount := rfl

/-! ### `State.takeT` -/

@[simp] theorem State.takeT_idWidth (s : State) (l : List TFrame) : (s.takeT l).idWidth = s.idWidth := rfl
@[simp] theorem State.takeT_idBase (s : State) (l : List TFrame) : (s.takeT l).idBase = s.idBase := rfl
@[simp] theorem State.takeT_ms (s : State) (l : List TFrame) : (s.takeT l).ms = s.ms := rfl
@[simp] theorem State.takeT_pid (s : State) (l : List TFrame) : (s.takeT l).pid = s.pid := rfl
@[simp] theorem State.takeT_tPort (s : State) (l : List TFrame) : (s.takeT l).tPort = l := rfl
@[simp] theorem State.takeT_hPort (s : State) (l : List TFrame) : (s.takeT l).hPort = s.hPort := rfl
@[simp] theorem State.takeT_responses (s : State) (l : List TFrame) : (s.takeT l).responses = s.responses := rfl
@[simp] theorem State.takeT_opCount (s : State) (l : List TFrame) : (s.takeT l).opCount = s.opCount + 1 := rfl

/-! ### `State.takeH` -/

@[simp] theorem State.takeH_idWidth (s : State) (l : List (BitVec 192)) : (s.takeH l).idWidth = s.idWidth := rfl
@[simp] theorem State.takeH_idBase (s : State) (l : List (BitVec 192)) : (s.takeH l).idBase = s.idBase := rfl
@[simp] theorem State.takeH_ms (s : State) (l : List (BitVec 192)) : (s.takeH l).ms = s.ms := rfl
@[simp] theorem State.takeH_pid (s : State) (l : List (BitVec 192)) : (s.takeH l).pid = s.pid := rfl
@[simp] theorem State.takeH_tPort (s : State) (l : List (BitVec 192)) : (s.takeH l).tPort = s.tPort := rfl
@[simp] theorem State.takeH_hPort (s : State) (l : List (BitVec 192)) : (s.takeH l).hPort = l := rfl
@[simp] theorem State.takeH_responses (s : State) (l : List (BitVec 192)) : (s.takeH l).responses = s.responses := rfl
@[simp] theorem State.takeH_opCount (s : State) (l : List (BitVec 192)) : (s.takeH l).opCount = s.opCount + 1 := rfl

/-! ### `State.presentT` -/

@[simp] theorem State.presentT_idWidth (s : State) (f : TFrame) : (s.presentT f).idWidth = s.idWidth := rfl
@[simp] theorem State.presentT_idBase (s : State) (f : TFrame) : (s.presentT f).idBase = s.idBase := rfl
@[simp] theorem State.presentT_ms (s : State) (f : TFrame) : (s.presentT f).ms = s.ms := rfl
@[simp] theorem State.presentT_pid (s : State) (f : TFrame) : (s.presentT f).pid = s.pid := rfl
@[simp] theorem State.presentT_tPort (s : State) (f : TFrame) : (s.presentT f).tPort = s.tPort ++ [f] := rfl
@[simp] theorem State.presentT_hPort (s : State) (f : TFrame) : (s.presentT f).hPort = s.hPort := rfl
@[simp] theorem State.presentT_responses (s : State) (f : TFrame) : (s.presentT f).responses = s.responses := rfl
@[simp] theorem State.presentT_opCount (s : State) (f : TFrame) : (s.presentT f).opCount = s.opCount := rfl

/-! ### `State.presentH` -/

@[simp] theorem State.presentH_idWidth (s : State) (r : BitVec 192) : (s.presentH r).idWidth = s.idWidth := rfl
@[simp] theorem State.presentH_idBase (s : State) (r : BitVec 192) : (s.presentH r).idBase = s.idBase := rfl
@[simp] theorem State.presentH_ms (s : State) (r : BitVec 192) : (s.presentH r).ms = s.ms := rfl
@[simp] theorem State.presentH_pid (s : State) (r : BitVec 192) : (s.presentH r).pid = s.pid := rfl
@[simp] theorem State.presentH_tPort (s : State) (r : BitVec 192) : (s.presentH r).tPort = s.tPort := rfl
@[simp] theorem State.presentH_hPort (s : State) (r : BitVec 192) : (s.presentH r).hPort = s.hPort ++ [r] := rfl
@[simp] theorem State.presentH_responses (s : State) (r : BitVec 192) : (s.presentH r).responses = s.responses := rfl
@[simp] theorem State.presentH_opCount (s : State) (r : BitVec 192) : (s.presentH r).opCount = s.opCount := rfl

/-! ### `State.rstEdge` -/

@[simp] theorem State.rstEdge_idWidth (s : State) : s.rstEdge.idWidth = s.idWidth := rfl
@[simp] theorem State.rstEdge_idBase (s : State) : s.rstEdge.idBase = s.idBase := rfl
@[simp] theorem State.rstEdge_ms (s : State) : s.rstEdge.ms = List.replicate s.ms.length MotorState.reset := rfl
@[simp] theorem State.rstEdge_pid (s : State) : s.rstEdge.pid = List.replicate s.pid.length PidController.reset := rfl
@[simp] theorem State.rstEdge_tPort (s : State) : s.rstEdge.tPort = [] := rfl
@[simp] theorem State.rstEdge_hPort (s : State) : s.rstEdge.hPort = [] := rfl
@[simp] theorem State.rstEdge_responses (s : State) : s.rstEdge.responses = s.responses := rfl
@[simp] theorem State.rstEdge_opCount (s : State) : s.rstEdge.opCount = s.opCount := rfl

/-! ### A controller -/

@[simp] theorem PidController.recordCurrent_p (c : PidController) (sp meas e : F32) :
    (c.recordCurrent sp meas e).p = c.p := rfl
@[simp] theorem PidController.recordCurrent_i (c : PidController) (sp meas e : F32) :
    (c.recordCurrent sp meas e).i = c.i := rfl
@[simp] theorem PidController.recordCurrent_d (c : PidController) (sp meas e : F32) :
    (c.recordCurrent sp meas e).d = c.d := rfl
@[simp] theorem PidController.recordCurrent_maxOut (c : PidController) (sp meas e : F32) :
    (c.recordCurrent sp meas e).maxOut = c.maxOut := rfl
@[simp] theorem PidController.recordCurrent_intLim (c : PidController) (sp meas e : F32) :
    (c.recordCurrent sp meas e).intLim = c.intLim := rfl
@[simp] theorem PidController.recordCurrent_maxErr (c : PidController) (sp meas e : F32) :
    (c.recordCurrent sp meas e).maxErr = c.maxErr := rfl
@[simp] theorem PidController.recordCurrent_deadband (c : PidController) (sp meas e : F32) :
    (c.recordCurrent sp meas e).deadband = c.deadband := rfl
@[simp] theorem PidController.recordCurrent_mode (c : PidController) (sp meas e : F32) :
    (c.recordCurrent sp meas e).mode = c.mode := rfl
@[simp] theorem PidController.recordCurrent_setHist (c : PidController) (sp meas e : F32) :
    (c.recordCurrent sp meas e).setHist = { c.setHist with cur := sp } := rfl
@[simp] theorem PidController.recordCurrent_getHist (c : PidController) (sp meas e : F32) :
    (c.recordCurrent sp meas e).getHist = { c.getHist with cur := meas } := rfl
@[simp] theorem PidController.recordCurrent_errHist (c : PidController) (sp meas e : F32) :
    (c.recordCurrent sp meas e).errHist = { c.errHist with cur := e } := rfl
@[simp] theorem PidController.recordCurrent_iOut (c : PidController) (sp meas e : F32) :
    (c.recordCurrent sp meas e).iOut = c.iOut := rfl
@[simp] theorem PidController.recordCurrent_posOut (c : PidController) (sp meas e : F32) :
    (c.recordCurrent sp meas e).posOut = c.posOut := rfl
@[simp] theorem PidController.recordCurrent_incOut (c : PidController) (sp meas e : F32) :
    (c.recordCurrent sp meas e).incOut = c.incOut := rfl
@[simp] theorem PidController.shiftHistory_p (c : PidController) : c.shiftHistory.p = c.p := rfl
@[simp] theorem PidController.shiftHistory_i (c : PidController) : c.shiftHistory.i = c.i := rfl
@[simp] theorem PidController.shiftHistory_d (c : PidController) : c.shiftHistory.d = c.d := rfl
@[simp] theorem PidController.shiftHistory_maxOut (c : PidController) : c.shiftHistory.maxOut = c.maxOut := rfl
@[simp] theorem PidController.shiftHistory_intLim (c : PidController) : c.shiftHistory.intLim = c.intLim := rfl
@[simp] theorem PidController.shiftHistory_maxErr (c : PidController) : c.shiftHistory.maxErr = c.maxErr := rfl
@[simp] theorem PidController.shiftHistory_deadband (c : PidController) : c.shiftHistory.deadband = c.deadband := rfl
@[simp] theorem PidController.shiftHistory_mode (c : PidController) : c.shiftHistory.mode = c.mode := rfl
@[simp] theorem PidController.shiftHistory_setHist (c : PidController) : c.shiftHistory.setHist = c.setHist.shift := rfl
@[simp] theorem PidController.shiftHistory_getHist (c : PidController) : c.shiftHistory.getHist = c.getHist.shift := rfl
@[simp] theorem PidController.shiftHistory_errHist (c : PidController) : c.shiftHistory.errHist = c.errHist.shift := rfl
@[simp] theorem PidController.shiftHistory_iOut (c : PidController) : c.shiftHistory.iOut = c.iOut := rfl
@[simp] theorem PidController.shiftHistory_posOut (c : PidController) : c.shiftHistory.posOut = c.posOut := rfl
@[simp] theorem PidController.shiftHistory_incOut (c : PidController) : c.shiftHistory.incOut = c.incOut := rfl
@[simp] theorem Triple.shift_cur (t : Triple) : t.shift.cur = t.cur := rfl
@[simp] theorem Triple.shift_prev (t : Triple) : t.shift.prev = t.cur := rfl
@[simp] theorem Triple.shift_prev2 (t : Triple) : t.shift.prev2 = t.prev := rfl

/-! ### A slot -/

@[simp] theorem MotorState.warmUp_angle (m : MotorState) (a : Half) : (m.warmUp a).angle = a := rfl
@[simp] theorem MotorState.warmUp_lastAngle (m : MotorState) (a : Half) : (m.warmUp a).lastAngle = m.lastAngle := rfl
@[simp] theorem MotorState.warmUp_offsetAngle (m : MotorState) (a : Half) : (m.warmUp a).offsetAngle = a := rfl
@[simp] theorem MotorState.warmUp_roundCount (m : MotorState) (a : Half) : (m.warmUp a).roundCount = m.roundCount := rfl
@[simp] theorem MotorState.warmUp_totalAngle (m : MotorState) (a : Half) : (m.warmUp a).totalAngle = m.totalAngle := rfl
@[simp] theorem MotorState.warmUp_current (m : MotorState) (a : Half) : (m.warmUp a).current = m.current := rfl
@[simp] theorem MotorState.warmUp_givenCurrent (m : MotorState) (a : Half) : (m.warmUp a).givenCurrent = m.givenCurrent := rfl
@[simp] theorem MotorState.warmUp_velocity (m : MotorState) (a : Half) : (m.warmUp a).velocity = m.velocity := rfl
@[simp] theorem MotorState.warmUp_hallState (m : MotorState) (a : Half) : (m.warmUp a).hallState = m.hallState := rfl
@[simp] theorem MotorState.warmUp_messageCount (m : MotorState) (a : Half) : (m.warmUp a).messageCount = m.messageCount := rfl
@[simp] theorem MotorState.steady_angle (m : MotorState) (a cv g : Half) (h : Byte) :
    (m.steady a cv g h).angle = a := rfl
@[simp] theorem MotorState.steady_lastAngle (m : MotorState) (a cv g : Half) (h : Byte) :
    (m.steady a cv g h).lastAngle = m.angle := rfl
@[simp] theorem MotorState.steady_offsetAngle (m : MotorState) (a cv g : Half) (h : Byte) :
    (m.steady a cv g h).offsetAngle = m.offsetAngle := rfl
@[simp] theorem MotorState.steady_roundCount (m : MotorState) (a cv g : Half) (h : Byte) :
    (m.steady a cv g h).roundCount = nextRoundCount m.roundCount (angleStep a m.angle) := rfl
@[simp] theorem MotorState.steady_totalAngle (m : MotorState) (a cv g : Half) (h : Byte) :
    (m.steady a cv g h).totalAngle = unwrappedAngle (nextRoundCount m.roundCount (angleStep a m.angle)) a m.offsetAngle := rfl
@[simp] theorem MotorState.steady_current (m : MotorState) (a cv g : Half) (h : Byte) :
    (m.steady a cv g h).current = cv := rfl
@[simp] theorem MotorState.steady_givenCurrent (m : MotorState) (a cv g : Half) (h : Byte) :
    (m.steady a cv g h).givenCurrent = givenCurrentOf g := rfl
@[simp] theorem MotorState.steady_velocity (m : MotorState) (a cv g : Half) (h : Byte) :
    (m.steady a cv g h).velocity = cv := rfl
@[simp] theorem MotorState.steady_hallState (m : MotorState) (a cv g : Half) (h : Byte) :
    (m.steady a cv g h).hallState = h := rfl
@[simp] theorem MotorState.steady_messageCount (m : MotorState) (a cv g : Half) (h : Byte) :
    (m.steady a cv g h).messageCount = m.messageCount := rfl
@[simp] theorem MotorState.countFrame_angle (m : MotorState) : m.countFrame.angle = m.angle := rfl
@[simp] theorem MotorState.countFrame_lastAngle (m : MotorState) : m.countFrame.lastAngle = m.lastAngle := rfl
@[simp] theorem MotorState.countFrame_offsetAngle (m : MotorState) : m.countFrame.offsetAngle = m.offsetAngle := rfl
@[simp] theorem MotorState.countFrame_roundCount (m : MotorState) : m.countFrame.roundCount = m.roundCount := rfl
@[simp] theorem MotorState.countFrame_totalAngle (m : MotorState) : m.countFrame.totalAngle = m.totalAngle := rfl
@[simp] theorem MotorState.countFrame_current (m : MotorState) : m.countFrame.current = m.current := rfl
@[simp] theorem MotorState.countFrame_givenCurrent (m : MotorState) : m.countFrame.givenCurrent = m.givenCurrent := rfl
@[simp] theorem MotorState.countFrame_velocity (m : MotorState) : m.countFrame.velocity = m.velocity := rfl
@[simp] theorem MotorState.countFrame_hallState (m : MotorState) : m.countFrame.hallState = m.hallState := rfl
@[simp] theorem MotorState.countFrame_messageCount (m : MotorState) : m.countFrame.messageCount = m.messageCount + 1 := rfl

end Sys2Proof.Machine
end

