-- ==== Sys2Proof/Laws/Ops.lean ====
section
/-!
SUPPORT. For each shared operation, once, everything it can answer. Later proofs cite these instead of unfolding it.
-/

namespace Sys2Proof.Machine

theorem route_some {s : State} {id n : Nat} (h : route s id = some n) : id = s.idBase + n ∧ n < s.ms.length := by
  unfold route at h
  split at h
  · cases h; omega
  · cases h

theorem route_none {s : State} {id : Nat} (h : route s id = none) :
    id < s.idBase ∨ s.idBase + s.ms.length ≤ id := by
  unfold route at h
  split at h
  · cases h
  · omega

@[simp] theorem onAxis_none {idx : Byte} {s : State} {k : PidController → StepOutcome} (h : s.pid[idx.toNat]? = none) :
    onAxis idx s k = .next s.ignore := by
  simp [onAxis, h]

@[simp] theorem onAxis_some {idx : Byte} {s : State} {k : PidController → StepOutcome} {c : PidController}
    (h : s.pid[idx.toNat]? = some c) : onAxis idx s k = k c := by
  simp [onAxis, h]

@[simp] theorem onSub_none {α : Type} (s : State) (k : α → StepOutcome) : onSub none s k = .next s.ignore := rfl

@[simp] theorem onSub_some {α : Type} (x : α) (s : State) (k : α → StepOutcome) : onSub (some x) s k = k x := rfl

/-- What an operation on an axis can answer: it is ignored, or it is the operation's answer on that axis. -/
theorem onAxis_next {idx : Byte} {s t : State} {k : PidController → StepOutcome} (h : onAxis idx s k = .next t) :
    t = s.ignore ∨ ∃ c, s.pid[idx.toNat]? = some c ∧ k c = .next t := by
  unfold onAxis at h
  split at h
  · cases h; exact .inl rfl
  · exact .inr ⟨_, ‹_›, h⟩

/-- What an operation with a `sub` can answer: it is ignored, or it is the operation's answer for what `sub` names. -/
theorem onSub_next {α : Type} {o : Option α} {s t : State} {k : α → StepOutcome} (h : onSub o s k = .next t) :
    t = s.ignore ∨ ∃ x, o = some x ∧ k x = .next t := by
  cases o with
  | none => exact .inl (by simpa using h.symm)
  | some x => exact .inr ⟨x, rfl, h⟩

theorem onFinite_of_true {mn : String} {c : PidController} {ops : List F32} (h : allFinite c ops = true)
    (k : StepOutcome) : onFinite mn c ops k = k := by
  rw [onFinite, if_pos h]

theorem onFinite_of_false {mn : String} {c : PidController} {ops : List F32} (h : allFinite c ops = false)
    (k : StepOutcome) : onFinite mn c ops k = .refused (.nonFinite mn) := by
  rw [onFinite, h, if_neg Bool.false_ne_true]

/-- What a configuration operation on an axis can answer with a next state: what it does on finite operands and registers. -/
theorem onFinite_next {mn : String} {c : PidController} {ops : List F32} {k : StepOutcome} {t : State}
    (h : onFinite mn c ops k = .next t) : allFinite c ops = true ∧ k = .next t := by
  cases hf : allFinite c ops with
  | true => exact ⟨rfl, by rwa [onFinite_of_true hf] at h⟩
  | false => rw [onFinite_of_false hf] at h; cases h

theorem domainStop_eq_none {mn : String} {c : PidController} {ops : List F32} :
    domainStop mn c ops = none ↔ inDomain c ops = true := by
  unfold domainStop inDomain
  cases allFinite c ops <;> cases limitsOk c <;> simp

@[simp] theorem commit_none (s : State) (n : Nat) : s.commit n none = s.respond (scalarResponse fZero) := rfl

@[simp] theorem commit_some (s : State) (n : Nat) (c : PidController) (out : F32) :
    s.commit n (some (c, out)) = (s.setAxis n c).respond (scalarResponse out) := rfl

/-- What a clamp can answer (R175). -/
theorem clamp_cases (x limit : F32) :
    (clamp x limit = limit ∧ fgt x limit = true) ∨
    (clamp x limit = fneg limit ∧ fgt x limit = false ∧ flt x (fneg limit) = true) ∨
    (clamp x limit = x ∧ fgt x limit = false ∧ flt x (fneg limit) = false) := by
  unfold clamp
  cases h : fgt x limit <;> cases h' : flt x (fneg limit) <;> simp

/-- What a rewrap can answer (R125, R126): one adjustment, or none. -/
theorem rewrapBy_cases (nan e nl l per : F32) :
    rewrapBy nan e nl l per = fadd nan e per ∨ rewrapBy nan e nl l per = fsub nan e per ∨
      rewrapBy nan e nl l per = e := by
  unfold rewrapBy
  split
  · simp
  · split <;> simp

/-- What a compute can answer: nothing when it is voided, otherwise the law's answer with the history shifted. -/
theorem computeWith_cases (nan : Nat → F32) (c : PidController) (dom : ErrorDomain) (meas sp : F32)
    (law : PidController → F32 → PidController × F32) :
    (computeWith nan c dom meas sp law = none ∧ voids c (formError nan dom meas sp) = true) ∨
    ∃ r, r = law (c.recordCurrent sp meas (formError nan dom meas sp)) (formError nan dom meas sp) ∧
      voids c (formError nan dom meas sp) = false ∧
      computeWith nan c dom meas sp law = some (r.1.shiftHistory, r.2) := by
  unfold computeWith
  cases h : voids c (formError nan dom meas sp) <;> simp [h]

/-- What performing an operation can be. -/
theorem perform_cases (op : PortOp) (s : State) :
    (∃ i, decode op = .instr i ∧ perform op s = exec i s) ∨
    (∃ c, decode op = .reservedOpcode c ∧ perform op s = .next s.ignore) := by
  unfold perform
  cases h : decode op with
  | instr i => exact .inl ⟨i, rfl, rfl⟩
  | reservedOpcode c => exact .inr ⟨c, rfl, rfl⟩

/-- Everything a step can be: nothing presented, the frame at the head of the T port, or the request at the head of the
H port. -/
theorem step_cases (s : State) :
    (s.tPort = [] ∧ s.hPort = [] ∧ step s = .next s) ∨
    (∃ f ts, s.tPort = f :: ts ∧ step s = perform (.t f.id f.data) (s.takeT ts)) ∨
    (∃ r hs, s.hPort = r :: hs ∧ step s = perform (.h r) (s.takeH hs)) := by
  unfold step
  cases ht : s.tPort with
  | nil =>
    cases hh : s.hPort with
    | nil => simp
    | cons r hs => exact .inr (.inr ⟨r, hs, rfl, rfl⟩)
  | cons f ts =>
    cases hh : s.hPort with
    | nil => exact .inr (.inl ⟨f, ts, rfl, rfl⟩)
    | cons r hs =>
      cases ha : Config.arbTakesT s.opCount with
      | true => exact .inr (.inl ⟨f, ts, rfl, by simp [performT]⟩)
      | false => exact .inr (.inr ⟨r, hs, rfl, by simp [performH]⟩)

end Sys2Proof.Machine
end

