-- ==== Sys2Proof/Laws/PerInstr.lean ====
section
/-!
SUPPORT. The family `OpcodeOnPort`: the encoding of an operation stands on its port, under its own operation code
(`30_encoding.md` R60, R67). One lemma per constructor of `Instr`.
-/

namespace Sys2Proof.Laws.OpcodeOnPort

/-- The operation code of R60: none for `FRAME`, which is the T port's one operation. -/
def opcode : Instr → Option Nat
  | .frame .. => none
  | .pidCfg .. => some 1
  | .pidGains .. => some 2
  | .pidLim .. => some 3
  | .pidCalc .. => some 4
  | .pidCalcFb .. => some 5
  | .pidRd .. => some 6
  | .msRd .. => some 7

/-- The operation code the bits on a port carry: none on the T port, `h_req[191:188]` on the H port. -/
def codeOn : PortOp → Option Nat
  | .t _ _ => none
  | .h req => some (opField (reqWord req 0)).toNat

/-- The encoding of `i` carries the operation code of `i`. -/
def Statement (i : Instr) : Prop := codeOn (encode i) = opcode i

theorem opField_packed (op : BitVec 4) (x s : Byte) (w1 w2 w3 w4 w5 : Word) :
    opField (reqWord (packRequest (header op x s) w1 w2 w3 w4 w5) 0) = op := by
  apply BitVec.eq_of_getLsbD_eq
  intro k hk
  simp [opField, reqWord, packRequest, header, BitVec.getLsbD_extractLsb', hk]
  grind

theorem frame (id : Nat) (rawAngle rawCv rawGiven : Half) (rawHall : Byte) :
    Statement (.frame id rawAngle rawCv rawGiven rawHall) := rfl

theorem pidCfg (idx sub : Byte) (maxOutput integralLimit p i d : F32) :
    Statement (.pidCfg idx sub maxOutput integralLimit p i d) := by
  simp [Statement, encode, codeOn, opcode, opField_packed]

theorem pidGains (idx : Byte) (p i d : F32) : Statement (.pidGains idx p i d) := by
  simp [Statement, encode, codeOn, opcode, opField_packed]

theorem pidLim (idx : Byte) (maxError deadband : F32) : Statement (.pidLim idx maxError deadband) := by
  simp [Statement, encode, codeOn, opcode, opField_packed]

theorem pidCalc (idx sub : Byte) (measurement setpoint : F32) : Statement (.pidCalc idx sub measurement setpoint) := by
  simp [Statement, encode, codeOn, opcode, opField_packed]

theorem pidCalcFb (idx sub : Byte) (measurement setpoint feedback : F32) :
    Statement (.pidCalcFb idx sub measurement setpoint feedback) := by
  simp [Statement, encode, codeOn, opcode, opField_packed]

theorem pidRd (idx sub : Byte) : Statement (.pidRd idx sub) := by
  simp [Statement, encode, codeOn, opcode, opField_packed]

theorem msRd (idx : Byte) : Statement (.msRd idx) := by
  simp [Statement, encode, codeOn, opcode, opField_packed]

end Sys2Proof.Laws.OpcodeOnPort
end

