-- ==== Sys2Proof/Laws/Pid.lean ====
section
/-!
SUPPORT. What the operations of the H port do to the state as a whole, once for all seven.
-/

namespace Sys2Proof.Machine

/-- `t` is `s` with another controller register file, of which only the entry `k` may differ, and one more response. -/
structure AnsweredAt (k : Option Nat) (s t : State) : Prop where
  rest : ∃ pid' answer, t = { s with pid := pid', responses := s.responses ++ [answer] } ∧
    pid'.length = s.pid.length ∧ ∀ n, k ≠ some n → pid'[n]? = s.pid[n]?

theorem AnsweredAt.respond (k : Option Nat) (s : State) (r : Response) : AnsweredAt k s (s.respond r) :=
  ⟨s.pid, r, rfl, rfl, fun _ _ => rfl⟩

theorem AnsweredAt.setAxis_respond (s : State) (n : Nat) (c : PidController) (r : Response) :
    AnsweredAt (some n) s ((s.setAxis n c).respond r) :=
  ⟨s.pid.set n c, r, rfl, by simp, fun j hj => List.getElem?_set_ne (fun h => hj (congrArg some h))⟩

theorem AnsweredAt.commit (s : State) (n : Nat) (o : Option (PidController × F32)) :
    AnsweredAt (some n) s (s.commit n o) := by
  rcases o with _ | ⟨c, out⟩
  · exact .respond _ _ _
  · exact .setAxis_respond _ _ _ _

/-- An operation on an axis answers once, and touches no other axis, if what it does there is so. -/
theorem AnsweredAt.onAxis {k : Option Nat} {idx : Byte} {s t : State} {f : PidController → StepOutcome}
    (h : onAxis idx s f = .next t) (hf : ∀ c, s.pid[idx.toNat]? = some c → f c = .next t → AnsweredAt k s t) :
    AnsweredAt k s t := by
  rcases onAxis_next h with rfl | ⟨c, hc, hn⟩
  · exact .respond _ _ _
  · exact hf c hc hn

theorem AnsweredAt.onSub {α : Type} {k : Option Nat} {o : Option α} {s t : State} {f : α → StepOutcome}
    (h : onSub o s f = .next t) (hf : ∀ x, o = some x → f x = .next t → AnsweredAt k s t) : AnsweredAt k s t := by
  rcases onSub_next h with rfl | ⟨x, hx, hn⟩
  · exact .respond _ _ _
  · exact hf x hx hn

/-- Every operation of the H port that completes answers once and writes no slot, and no axis but the one it names. -/
theorem exec_answeredAt {i : Instr} {s t : State} (hi : onTPort i = false) (h : exec i s = .next t) :
    AnsweredAt (requestIndex i) s t := by
  cases i with
  | frame => cases hi
  | pidCfg =>
    refine .onAxis h fun c _ h => .onSub h fun md _ h => ?_
    cases (onFinite_next h).2
    exact .setAxis_respond _ _ _ _
  | pidGains =>
    refine .onAxis h fun c _ h => ?_
    cases (onFinite_next h).2
    exact .setAxis_respond _ _ _ _
  | pidLim =>
    refine .onAxis h fun c _ h => ?_
    cases (onFinite_next h).2
    exact .setAxis_respond _ _ _ _
  | pidCalc =>
    refine .onAxis h fun c _ h => .onSub h fun dom _ h => ?_
    split at h <;> cases h
    exact .commit _ _ _
  | pidCalcFb =>
    refine .onAxis h fun c _ h => .onSub h fun dom _ h => ?_
    split at h
    · cases h
    · split at h <;> cases h
      exact .commit _ _ _
  | pidRd => exact .onAxis h fun c _ h => .onSub h fun r _ h => by cases h; exact .respond _ _ _
  | msRd =>
    simp only [exec, execMsRd] at h
    split at h <;> cases h <;> exact .respond _ _ _

/-- A request decodes to an operation of the H port. -/
theorem onTPort_of_decodeRequest {r : BitVec 192} {i : Instr} (h : decodeRequest r = .instr i) : onTPort i = false := by
  unfold decodeRequest at h
  simp only at h
  split at h <;> cases h <;> rfl

end Sys2Proof.Machine
end

