-- ==== Sys2Proof/Laws/Telemetry.lean ====
section
/-!
SUPPORT. What the definitions of the Telemetry Decoder do, once each: the two branches, the three cases of the detector, and
the slot a frame reaches.
-/

namespace Sys2Proof.Machine

theorem inWarmUp_iff (m : MotorState) : inWarmUp m = true ↔ m.messageCount.toNat ≤ 50 :=
  decide_eq_true_iff

theorem decodeFrame_of_warmUp {m : MotorState} (a cv g : Half) (h : Byte) (hm : m.messageCount.toNat ≤ 50) :
    m.decodeFrame a cv g h = (m.warmUp a).countFrame := by
  simp only [MotorState.decodeFrame, (inWarmUp_iff m).2 hm, if_true]

theorem decodeFrame_of_steady {m : MotorState} (a cv g : Half) (h : Byte) (hm : 51 ≤ m.messageCount.toNat) :
    m.decodeFrame a cv g h = (m.steady a cv g h).countFrame := by
  have : inWarmUp m = false := by
    rw [Bool.eq_false_iff, Ne, inWarmUp_iff]; omega
  simp only [MotorState.decodeFrame, this, Bool.false_eq_true, if_false]

theorem nextRoundCount_of_gt {rc : Word} {d : Int} (h : 4096 < d) : nextRoundCount rc d = rc - 1 := by
  have : nextRoundCount rc d = BitVec.ofInt 32 (rc.toInt - 1) := if_pos h
  rw [this]
  apply BitVec.eq_of_toInt_eq
  simp [BitVec.toInt_sub]

theorem nextRoundCount_of_lt {rc : Word} {d : Int} (h : d < -4096) : nextRoundCount rc d = rc + 1 := by
  have : nextRoundCount rc d = BitVec.ofInt 32 (rc.toInt + 1) := by
    rw [nextRoundCount, if_neg (by simp only [halfTurn]; omega), if_pos (by simp only [halfTurn]; omega)]
  rw [this]
  apply BitVec.eq_of_toInt_eq
  simp [BitVec.toInt_add]

theorem nextRoundCount_of_mid {rc : Word} {d : Int} (h : -4096 ≤ d) (h' : d ≤ 4096) : nextRoundCount rc d = rc := by
  rw [nextRoundCount, if_neg (by simp only [halfTurn]; omega), if_neg (by simp only [halfTurn]; omega)]

theorem unwrappedAngle_toInt (rc : Word) (a o : Half) :
    (unwrappedAngle rc a o).toInt = (rc.toInt * 8192 + (a.toNat : Int) - (o.toNat : Int)).bmod (2 ^ 32) := by
  simp [unwrappedAngle, modulus]

/-- The slot of an identifier the block knows. -/
theorem route_base_add {s : State} {n : Nat} (h : n < s.ms.length) : route s (s.idBase + n) = some n := by
  unfold route
  rw [if_pos ⟨Nat.le_add_right _ _, by omega⟩]
  simp

/-- Everything a `FRAME` can do: it is dropped, or it decodes the slot its identifier maps to. -/
theorem execFrame_cases (id : Nat) (a cv g : Half) (h : Byte) (s : State) :
    (execFrame id a cv g h s = .next s ∧ (id < s.idBase ∨ s.idBase + s.ms.length ≤ id)) ∨
    ∃ n m, id = s.idBase + n ∧ s.ms[n]? = some m ∧
      execFrame id a cv g h s = .next (s.setSlot n (m.decodeFrame a cv g h)) := by
  unfold execFrame
  cases hr : route s id with
  | none => exact .inl ⟨rfl, route_none hr⟩
  | some n =>
    obtain ⟨hid, hn⟩ := route_some hr
    refine .inr ⟨n, s.ms[n], hid, List.getElem?_eq_getElem hn, ?_⟩
    simp only [List.getElem?_eq_getElem hn]

end Sys2Proof.Machine
end

