-- ==== Sys2Proof/WellFormed.lean ====
section
/-!
DEFINITION. When an operation is one the spec gives a meaning other than "ignored": its identifier fits the T port (R61),
its index names a slot or an axis (R75), its `sub` is not reserved (R74). A machine runs ill-formed operations as well:
R74 and R75 say what they do. A frame with an identifier that maps to no slot is well formed; R76 drops it.
-/

namespace Sys2Proof

/-- The identifier can stand on `t_id`, which is `ID_WIDTH` bits wide (R61). -/
def Params.idFits (p : Params) (id : Nat) : Bool := decide (id < 2 ^ p.idWidth)

/-- The index names an axis (R42, R75). -/
def Params.axisOk (p : Params) (idx : Byte) : Bool := decide (idx.toNat < p.naxes)

/-- The index names a slot (R41, R75). -/
def Params.slotOk (p : Params) (idx : Byte) : Bool := decide (idx.toNat < p.nmotors)

/-- The checks of R61, R74 and R75, operation by operation. -/
def Instr.wellFormed (p : Params) : Instr → Bool
  | .frame id _ _ _ _ => p.idFits id
  | .pidCfg idx sub _ _ _ _ _ => p.axisOk idx && decide (sub.toNat < 2)
  | .pidGains idx _ _ _ => p.axisOk idx
  | .pidLim idx _ _ => p.axisOk idx
  | .pidCalc idx sub _ _ => p.axisOk idx && decide (sub.toNat < 3)
  | .pidCalcFb idx sub _ _ _ => p.axisOk idx && decide (sub.toNat < 3)
  | .pidRd idx sub => p.axisOk idx && decide (sub.toNat < 20)
  | .msRd idx => p.slotOk idx

end Sys2Proof
end

