-- ==== Sys2Proof/Tests/Slice0.lean ====
section
/-!
SUPPORT. Tests of the model on small states, by the kernel's evaluation. Expected values are the spec's own
(`30_encoding.md` R82, `95_test_vectors.md` S1 to S8, E1 to E17, T1 to T9, P1 to P13), each named at its test. The witnesses
at the end show, for every statement with hypotheses, values that meet them, clause by clause.
-/

open Sys2Proof Sys2Proof.Machine

namespace Sys2Proof.Tests

-- one theorem after the other: each evaluation by the kernel would otherwise hold a thread of its own
set_option Elab.async false

/-! ## Helpers -/

def nextOf : StepOutcome → Option State
  | .next t => some t
  | .fault _ => none
  | .refused _ => none

def refusalOf : StepOutcome → Option Refusal
  | .next _ => none
  | .fault _ => none
  | .refused r => some r

/-- A block of one slot, with the given contents, and one axis at reset. -/
def oneSlot (m : MotorState) : State := { State.resetWith { nmotors := 1, naxes := 1, idWidth := 11, idBase := 0x201 } with ms := [m] }

/-- A block of one axis, with the given contents, and one slot at reset. -/
def oneAxis (c : PidController) : State := { State.resetWith { nmotors := 1, naxes := 1, idWidth := 11, idBase := 0x201 } with pid := [c] }

def slotAfter (o : StepOutcome) : Option MotorState := (nextOf o).bind fun t => t.ms[0]?

def axisAfter (o : StepOutcome) : Option PidController := (nextOf o).bind fun t => t.pid[0]?

def answerOf (o : StepOutcome) : Option Response := (nextOf o).bind fun t => t.responses.getLast?

/-- The words of a response, `r0` first. -/
def words (r : Response) : List Word := [r.r0, r.r1, r.r2, r.r3, r.r4, r.r5, r.r6]

/-- `PID.CFG pos, 50, 20, 1, 0, 0` from reset (S5, S6). -/
def pAxis : PidController := { PidController.reset with maxOut := 0x42480000#32, intLim := 0x41A00000#32, p := 0x3F800000#32 }

/-- `PID.CFG pos, 100, 50, 0.1, 0.2, 0.3` from reset (P10). -/
def p10Axis : PidController :=
  { PidController.reset with maxOut := 0x42C80000#32, intLim := 0x42480000#32, p := 0x3DCCCCCD#32, i := 0x3E4CCCCD#32,
                             d := 0x3E99999A#32 }

/-- A slot with the given count, angle and zero reference, the rest 0. -/
def slotAt (count : Word) (angle offsetAngle : Half) : MotorState :=
  { MotorState.reset with messageCount := count, angle := angle, offsetAngle := offsetAngle }

/-! ## Well-formedness: for each check, a term it accepts and an ill-formed term it refuses (R61, R74, R75) -/

def accepts (i : Instr) : Bool := i.wellFormed Params.standard

theorem test_wf_frame : accepts (.frame 2047 0 0 0 0) = true ∧ accepts (.frame 2048 0 0 0 0) = false := by
  decide +kernel

theorem test_wf_cfg :
    accepts (.pidCfg 3 1 0 0 0 0 0) = true ∧ accepts (.pidCfg 4 1 0 0 0 0 0) = false ∧
      accepts (.pidCfg 3 2 0 0 0 0 0) = false := by decide +kernel

theorem test_wf_gains : accepts (.pidGains 3 0 0 0) = true ∧ accepts (.pidGains 4 0 0 0) = false := by decide +kernel

theorem test_wf_lim : accepts (.pidLim 3 0 0) = true ∧ accepts (.pidLim 4 0 0) = false := by decide +kernel

theorem test_wf_calc :
    accepts (.pidCalc 3 2 0 0) = true ∧ accepts (.pidCalc 4 2 0 0) = false ∧ accepts (.pidCalc 3 3 0 0) = false := by
  decide +kernel

theorem test_wf_calcFb :
    accepts (.pidCalcFb 3 2 0 0 0) = true ∧ accepts (.pidCalcFb 4 2 0 0 0) = false ∧
      accepts (.pidCalcFb 3 3 0 0 0) = false := by decide +kernel

theorem test_wf_rd :
    accepts (.pidRd 3 19) = true ∧ accepts (.pidRd 4 19) = false ∧ accepts (.pidRd 3 20) = false := by decide +kernel

theorem test_wf_msRd : accepts (.msRd 3) = true ∧ accepts (.msRd 4) = false := by decide +kernel

/-! ## Decoding words written out from the encodings of `30_encoding.md` (E1 to E17) -/

/-- E2: byte 7 is ignored. -/
theorem test_decode_frame :
    decode (.t 0x203 0x1FA40064FF9C01AA#64) = .instr (.frame 0x203 8100#16 100#16 (-100#16) 1#8) := by decide +kernel

/-- E3. -/
theorem test_decode_cfg :
    decode (.h 0x10101000_42480000_41A00000_3F800000_3F000000_00000000#192) =
      .instr (.pidCfg 1 1 0x42480000#32 0x41A00000#32 0x3F800000#32 0x3F000000#32 0#32) := by decide +kernel

/-- E5. -/
theorem test_decode_gains :
    decode (.h 0x20000000_40000000_3F000000_3F800000_00000000_00000000#192) =
      .instr (.pidGains 0 0x40000000#32 0x3F000000#32 0x3F800000#32) := by decide +kernel

/-- E6. -/
theorem test_decode_lim :
    decode (.h 0x30000000_42C80000_40000000_00000000_00000000_00000000#192) =
      .instr (.pidLim 0 0x42C80000#32 0x40000000#32) := by decide +kernel

/-- E8. -/
theorem test_decode_calc :
    decode (.h 0x40100000_41200000_41F00000_00000000_00000000_00000000#192) =
      .instr (.pidCalc 1 0 0x41200000#32 0x41F00000#32) := by decide +kernel

/-- E7 with the ignored bits of E17. -/
theorem test_decode_calc_ignored_bits :
    decode (.h 0x40002FFF_C32A0000_432A0000_00000000_00000000_00000000#192) =
      .instr (.pidCalc 0 2 0xC32A0000#32 0x432A0000#32) := by decide +kernel

/-- E10. -/
theorem test_decode_calcFb :
    decode (.h 0x50300000_42C80000_447A0000_42C80000_00000000_00000000#192) =
      .instr (.pidCalcFb 3 0 0x42C80000#32 0x447A0000#32 0x42C80000#32) := by decide +kernel

/-- E12. -/
theorem test_decode_rd :
    decode (.h 0x60013000_00000000_00000000_00000000_00000000_00000000#192) = .instr (.pidRd 0 19) := by decide +kernel

/-- E13. -/
theorem test_decode_msRd :
    decode (.h 0x70300000_00000000_00000000_00000000_00000000_00000000#192) = .instr (.msRd 3) := by decide +kernel

/-- E14. -/
theorem test_decode_reserved :
    decode (.h 0#192) = .reservedOpcode 0 ∧
    decode (.h 0x80000000_00000000_00000000_00000000_00000000_00000000#192) = .reservedOpcode 8 ∧
    decode (.h 0xF0000000_00000000_00000000_00000000_00000000_00000000#192) = .reservedOpcode 15 := by decide +kernel

/-- The rows of the opcode table: 64 bits are a frame, and the words of a request count on from `w0`. -/
theorem test_decodeTableWord :
    decodeTableWord 64 0x1FA40064FF9C0100 = some (.frame 0 8100#16 100#16 (-100#16) 1#8) ∧
    decodeTableWord 96 0x432A0000_C32A0000_40002000 = some (.pidCalc 0 2 0xC32A0000#32 0x432A0000#32) ∧
    decodeTableWord 32 0x70300000 = some (.msRd 3) ∧
    decodeTableWord 32 0x80000000 = none := by decide +kernel

/-- What `withFetchWord` places is what the next step performs. -/
theorem test_withFetchWord_msRd :
    answerOf (step ((oneSlot (slotAt 60 7 5)).withFetchWord 32 0x70000000)) =
      answerOf (exec (.msRd 0) (oneSlot (slotAt 60 7 5))) := by decide +kernel

theorem test_withFetchWord_frame :
    nextOf (step (State.reset.withFetchWord 64 0x1FA40064FF9C0100)) = some { State.reset with opCount := 1 } := by
  decide +kernel

/-! ## One step of each operation -/

/-- S1, T2: the 51st frame is still warm-up. -/
theorem test_frame_warmUp_at_50 :
    slotAfter (execFrame 0x201 300 0x0102 0xFFFB 3 (oneSlot (slotAt 50 7 7))) = some (slotAt 51 300 300) := by
  decide +kernel

/-- T6: a whole steady-state frame. -/
theorem test_frame_steady :
    slotAfter (execFrame 0x201 16 0x8000 0x7FFF 0xFF (oneSlot (slotAt 51 2000 2000))) =
      some { angle := 16, lastAngle := 2000, offsetAngle := 2000, roundCount := 0, totalAngle := 0xFFFFF840#32,
             current := 0x8000, givenCurrent := 0xE667, velocity := 0x8000, hallState := 0xFF, messageCount := 52 } := by
  decide +kernel

/-- T3: the thresholds are strict, and a wrap counts once. -/
theorem test_wrap_thresholds :
    (nextRoundCount 0 4096 = 0 ∧ nextRoundCount 0 4097 = 0xFFFFFFFF#32) ∧
    (nextRoundCount 0 (-4096) = 0 ∧ nextRoundCount 0 (-4097) = 1) := by decide +kernel

/-- T7: the 32-bit wrap of `totalAngle`. -/
theorem test_total_angle_wraps :
    unwrappedAngle 262144 10 0 = 0x8000000A#32 ∧ unwrappedAngle 0xFFFBFFFF#32 8000 100 = 0x7FFFFEDC#32 := by
  decide +kernel

/-- T5: truncation toward zero. -/
theorem test_given_current :
    [0#16, 4, 0xFFFC, 7, 0xFFF9, 0x7FFF, 0x8000].map (fun g => (givenCurrentOf g).toInt) = [0, 0, 0, -1, 1, -6553, 6553] := by
  decide +kernel

/-- T6: the response to `MS.RD`. -/
theorem test_msRd :
    (answerOf (execMsRd 0 (oneSlot
      { angle := 2016, lastAngle := 2000, offsetAngle := 2000, roundCount := 0, totalAngle := 16, current := 0xFF38,
        givenCurrent := 0xFC18, velocity := 0xFF38, hallState := 5, messageCount := 52 }))).map words =
      some [0x00000010#32, 0x00000000, 0x00000034, 0x07E007D0, 0x07D0FF38, 0xFF38FC18, 0x00000005] := by decide +kernel

/-- T9, E16: a slot that does not exist. -/
theorem test_msRd_no_slot :
    (answerOf (execMsRd 4 State.reset)).map words = some [0, 0, 0, 0, 0, 0, 0] := by decide +kernel

/-- P1: the second `PID.CFG` leaves the limits of `PID.LIM` and the history. -/
theorem test_cfg :
    axisAfter (execPidCfg 0 1 0x41200000#32 0x40A00000#32 0 0 0
      (oneAxis { pAxis with maxErr := 0x42C80000#32, errHist := ⟨1, 2, 3⟩, iOut := 9 })) =
      some { PidController.reset with maxOut := 0x41200000#32, intLim := 0x40A00000#32, mode := .incremental,
                                      maxErr := 0x42C80000#32, errHist := ⟨1, 2, 3⟩, iOut := 9 } := by decide +kernel

/-- P1. -/
theorem test_gains :
    axisAfter (execPidGains 0 0x40000000#32 0x3F000000#32 0x3F800000#32 (oneAxis pAxis)) =
      some { pAxis with p := 0x40000000#32, i := 0x3F000000#32, d := 0x3F800000#32 } := by decide +kernel

/-- P1. -/
theorem test_lim :
    axisAfter (execPidLim 0 0x42C80000#32 0x40000000#32 (oneAxis pAxis)) =
      some { pAxis with maxErr := 0x42C80000#32, deadband := 0x40000000#32 } := by decide +kernel

/-- S6: 340 degrees are rewrapped to -20 before the law. -/
theorem test_calc_rewrap :
    (answerOf (execPidCalc 0 2 0xC32A0000#32 0x432A0000#32 (oneAxis pAxis))).map words =
      some [0xC1A00000#32, 0, 0, 0, 0, 0, 0] := by decide +kernel

/-- P10: the order of evaluation and the rounding of each primitive. -/
theorem test_calc_rounding :
    (axisAfter (execPidCalc 0 0 0x3F333333#32 0x3F8CCCCD#32 (oneAxis p10Axis))).map
      (fun c => (c.errHist, c.iOut, c.posOut)) =
      some (⟨0x3ECCCCCE#32, 0x3ECCCCCE#32, 0⟩, 0x3DA3D70B#32, 0x3E75C290#32) := by decide +kernel

/-- P10, the second call in incremental mode. -/
theorem test_calc_incremental :
    (axisAfter (execPidCalc 0 0 0x3F666666#32 0x3F8CCCCD#32 (oneAxis
      { p10Axis with mode := .incremental, errHist := ⟨0x3ECCCCCE#32, 0x3ECCCCCE#32, 0⟩, incOut := 0x3E75C290#32 }))).map
      (fun c => (c.iOut, c.posOut, c.incOut)) = some (0x3D23D70D#32, 0, 0x3DA3D70C#32) := by decide +kernel

/-- P8 (c): at the threshold the integral accumulates, and the feedback term rounds twice. -/
theorem test_calcFb_threshold :
    (axisAfter (execPidCalcFb 0 0 0 0x40000000#32 0x40E00000#32 (oneAxis
      { PidController.reset with maxOut := 0x42C80000#32, intLim := 0x41200000#32, p := 0x3F800000#32,
                                 i := 0x3A83126F#32, d := 0x40400000#32 }))).map
      (fun c => (c.iOut, c.posOut)) = some (0x3B03126F#32, 0x3FE56042#32) := by decide +kernel

/-- P8 (a): below the threshold the integral is forced to 0. -/
theorem test_calcFb_suppressed :
    (axisAfter (execPidCalcFb 0 0 0x3F800000#32 0x40800000#32 0x42200000#32 (oneAxis
      { PidController.reset with maxOut := 0x42C80000#32, intLim := 0x41200000#32, p := 0x40000000#32,
                                 d := 0x40A00000#32, iOut := 0x40400000#32 }))).map
      (fun c => (c.errHist.cur, c.iOut, c.posOut)) = some (0x40400000#32, 0, 0x40800000#32) := by decide +kernel

/-- P12: the numbers of the registers. -/
theorem test_rd :
    ([0, 7, 10, 17, 19].map fun (k : Byte) => (answerOf (execPidRd 0 k (oneAxis
      { pAxis with mode := .incremental, setHist := ⟨1, 2, 0x41200000#32⟩, iOut := 5, incOut := 6 }))).map Response.r0) =
      [some 0x3F800000#32, some 1, some 0x41200000#32, some 5, some 6] := by decide +kernel

/-- U3, U4, U7: the computes the spec leaves unspecified. -/
theorem test_refusals :
    refusalOf (execPidCalc 0 0 0x7F800000#32 0 (oneAxis pAxis)) = some (.nonFinite "PID.CALC") ∧
    refusalOf (execPidCalc 0 0 0 0 (oneAxis { pAxis with maxErr := 0xBF800000#32 })) = some (.negativeLimit "PID.CALC") ∧
    refusalOf (execPidCalc 0 0 0 0 (oneAxis { pAxis with maxErr := 0x80000000#32 })) = none ∧
    refusalOf (execPidCalcFb 0 0 0 0 0 (oneAxis { pAxis with mode := .incremental })) = some .feedbackInIncrementalMode := by
  decide +kernel

/-- U3: a configuration operation with a NaN or an infinity among its operands or on its axis. `PID.RD` is the exception. -/
theorem test_refusals_nonFinite :
    refusalOf (execPidCfg 0 0 0 0 0 0 0x7FC00000#32 (oneAxis pAxis)) = some (.nonFinite "PID.CFG") ∧
    refusalOf (execPidGains 0 0 0 0 (oneAxis { pAxis with iOut := 0xFF800000#32 })) = some (.nonFinite "PID.GAINS") ∧
    refusalOf (execPidLim 0 0x7F800000#32 0 (oneAxis pAxis)) = some (.nonFinite "PID.LIM") ∧
    (answerOf (execPidRd 0 17 (oneAxis { pAxis with iOut := 0x7FC00001#32 }))).map Response.r0 = some 0x7FC00001#32 := by
  decide +kernel

/-- U4: a negative limit is stored, and the axis that holds it can be configured again. -/
theorem test_negative_limit_is_stored :
    (axisAfter (execPidLim 0 0xBF800000#32 0 (oneAxis pAxis))).map PidController.maxErr = some 0xBF800000#32 ∧
    (axisAfter (execPidLim 0 0 0 (oneAxis { pAxis with maxErr := 0xBF800000#32 }))).map PidController.maxErr = some 0 := by
  decide +kernel

/-- R171: ties to even, gradual underflow, overflow, and the sign of a zero sum. -/
theorem test_rounding :
    fadd 0 0x4B800000#32 0x3F800000#32 = 0x4B800000#32 ∧ fadd 0 0x4B800001#32 0x3F800000#32 = 0x4B800002#32 ∧
    fmul 0 0x00800000#32 0x3F000000#32 = 0x00400000#32 ∧ fmul 0 0x00000001#32 0x3F000000#32 = 0 ∧
    fadd 0 0x7F7FFFFF#32 0x7F7FFFFF#32 = 0x7F800000#32 ∧ fadd 0 0 0x80000000#32 = 0 ∧
    fdiv 0 0x41A80000#32 0x42C80000#32 = 0x3E570A3D#32 := by decide +kernel

/-! ## Witnesses: values that meet the hypotheses of each statement, clause by clause -/

/-- A frame for slot 0, one for an identifier the block does not know, and three requests. -/
def frame0 : TFrame := { id := 0x201, data := 0x1FA40064FF9C0100#64 }
def reqCalc : BitVec 192 := 0x40002000_C32A0000_432A0000_00000000_00000000_00000000#192
def reqOp (op : BitVec 4) : BitVec 192 := packRequest (header op 0 0) 0 0 0 0 0

def withPorts (ts : List TFrame) (hs : List (BitVec 192)) : State := { oneAxis pAxis with tPort := ts, hPort := hs }

theorem witness_IgnoredBitsHaveNoEffect :
    (slotAt 50 7 7).messageCount.toNat ≤ 50 ∧
    [1, 2, 3, 4, 5, 6, 7, 0, 8, 15].map (fun k => requestOp (reqOp (BitVec.ofNat 4 k) ||| 0xFFF#192)) =
      [1, 2, 3, 4, 5, 6, 7, 0, 8, 15] := by decide +kernel

theorem witness_StepPerformsTheOldestOperation :
    ((withPorts [] []).tPort = [] ∧ (withPorts [] []).hPort = []) ∧
    ((withPorts [frame0] []).tPort = frame0 :: [] ∧ (withPorts [frame0] []).hPort = []) ∧
    ((withPorts [] [reqCalc]).tPort = [] ∧ (withPorts [] [reqCalc]).hPort = reqCalc :: [] ∧
      decodeRequest reqCalc = .instr (.pidCalc 0 2 0xC32A0000#32 0x432A0000#32)) ∧
    ((withPorts [frame0] [reqCalc]).tPort = frame0 :: [] ∧ (withPorts [frame0] [reqCalc]).hPort = reqCalc :: []) ∧
    ((withPorts [frame0] [reqOp 8]).tPort = frame0 :: [] ∧ (withPorts [frame0] [reqOp 8]).hPort = reqOp 8 :: [] ∧
      decodeRequest (reqOp 8) = .reservedOpcode 8) := by
  decide +kernel

theorem witness_ReservedOpcodeIsIgnored :
    (withPorts [] [reqOp 0]).hPort = reqOp 0 :: [] ∧ requestOp (reqOp 0) = 0 ∧
    (withPorts [] [reqOp 8]).hPort = reqOp 8 :: [] ∧ requestOp (reqOp 8) = 8 ∧
    (withPorts [] [reqOp 15]).hPort = reqOp 15 :: [] ∧ requestOp (reqOp 15) = 15 := by decide +kernel

/-- Steps that answer a next state: nothing presented, a frame, a request. -/
theorem witness_EachRequestIsAnsweredOnceInOrder :
    nextOf (step (withPorts [] [])) = some (withPorts [] []) ∧
    (nextOf (step (withPorts [frame0] []))).map (fun t => (t.tPort, t.responses)) = some ([], []) ∧
    (nextOf (step (withPorts [] [reqCalc]))).map (fun t => (t.hPort, t.responses.length)) = some ([], 1) := by
  decide +kernel

/-- An operation that reads no slot, and one that reads another slot than the frame's. -/
theorem witness_FrameCommutesWithHostOperation :
    (onTPort (.pidRd 0 0) = false ∧ nextOf (exec (.pidRd 0 0) State.reset) ≠ none) ∧
    (onTPort (.msRd 1) = false ∧ 0x201 ≠ State.reset.idBase + (1#8).toNat ∧
      nextOf (exec (.msRd 1) State.reset) ≠ none) := by decide +kernel

theorem witness_ResetLeavesZeros :
    MotorState.reset ∈ State.reset.ms ∧ PidController.reset ∈ State.reset.pid := by decide +kernel

/-- The identifiers next to the range on either side (T1). -/
theorem witness_FrameWithUnknownIdIsDropped :
    0x200 < State.reset.idBase ∧ State.reset.idBase + State.reset.ms.length ≤ 0x205 := by decide +kernel

theorem witness_FrameInWarmUpWritesItsSlot :
    (oneSlot (slotAt 50 7 7)).ms[0]? = some (slotAt 50 7 7) ∧ (slotAt 50 7 7).messageCount.toNat ≤ 50 ∧
    State.reset.ms[3]? = some MotorState.reset ∧ MotorState.reset.messageCount.toNat ≤ 50 := by decide +kernel

theorem witness_FrameInSteadyStateWritesItsSlot :
    (oneSlot (slotAt 51 7 7)).ms[0]? = some (slotAt 51 7 7) ∧ 51 ≤ (slotAt 51 7 7).messageCount.toNat ∧
    (oneSlot (slotAt 0xFFFFFFFF#32 7 7)).ms[0]? = some (slotAt 0xFFFFFFFF#32 7 7) ∧
    51 ≤ (slotAt 0xFFFFFFFF#32 7 7).messageCount.toNat := by decide +kernel

theorem witness_MessageCountSelectsTheBranch :
    (slotAt 50 7 7).messageCount.toNat ≤ 50 ∧ ¬ (slotAt 51 7 7).messageCount.toNat ≤ 50 := by decide +kernel

/-- The step `d` of each clause, for the raw angle 4097 or 0 after 0 or 4097, and at the bounds of the third clause. -/
theorem witness_TurnCountStepsByOneAndWraps :
    51 ≤ (slotAt 51 0 0).messageCount.toNat ∧
    ((4097#16).toNat : Int) - ((slotAt 51 0 0).angle.toNat : Int) > 4096 ∧
    ((0#16).toNat : Int) - ((slotAt 51 4097 0).angle.toNat : Int) < -4096 ∧
    (-4096 ≤ ((0#16).toNat : Int) - ((slotAt 51 4096 0).angle.toNat : Int) ∧
      ((0#16).toNat : Int) - ((slotAt 51 4096 0).angle.toNat : Int) ≤ 4096) ∧
    (-4096 ≤ ((4096#16).toNat : Int) - ((slotAt 51 0 0).angle.toNat : Int) ∧
      ((4096#16).toNat : Int) - ((slotAt 51 0 0).angle.toNat : Int) ≤ 4096) := by decide +kernel

theorem witness_GivenCurrentTruncatesTowardZero :
    0 ≤ (0#16).toInt ∧ 0 ≤ (0x7FFF#16).toInt ∧ (0xFFFF#16).toInt < 0 ∧ (0x8000#16).toInt < 0 := by decide +kernel

theorem witness_UnwrappedAngleIsExactInRange :
    (8191#16).toNat ≤ 8191 ∧ (0#16).toNat ≤ 8191 ∧
    (-262143 ≤ (BitVec.ofInt 32 (-262143)).toInt ∧ (BitVec.ofInt 32 (-262143)).toInt ≤ 262143) ∧
    (-262143 ≤ (262143#32).toInt ∧ (262143#32).toInt ≤ 262143) ∧
    (BitVec.ofInt 32 (-262144)).toInt = -262144 ∧
    262144 < (262145#32).toInt ∧ (BitVec.ofInt 32 (-262145)).toInt < -262144 := by decide +kernel

/-- A slot at 51 frames, its zero reference 0, after a frame with the first raw angle and one with the second. -/
def unwrapWitness (a1 a2 : Half) : Bool :=
  let m := slotAt 51 a1 0
  let m1 := m.decodeFrame a1 0 0 0
  let m2 := m1.decodeFrame a2 0 0 0
  decide (51 ≤ m.messageCount.toNat ∧ 51 ≤ m1.messageCount.toNat ∧ a1.toNat ≤ 8191 ∧ a2.toNat ≤ 8191 ∧
    m1.ExactTotal ∧ m2.ExactTotal)

/-- Steps of 4096, -4096, 4097 and -4097. -/
theorem witness_UnwrapIsContinuous :
    unwrapWitness 0 4096 = true ∧ unwrapWitness 4096 0 = true ∧ unwrapWitness 0 4097 = true ∧
      unwrapWitness 4097 0 = true := by decide +kernel

/-- The bounds of T4: `a - o` = 4096, -4096, 4097 and -4097. -/
theorem witness_FirstSteadyAngleIsTheShortestStep :
    (∀ m ∈ [slotAt 51 0 0, slotAt 51 4096 4096, slotAt 51 4097 4097],
      m.WarmUpClear ∧ m.Referenced ∧ m.messageCount.toNat = 51 ∧ m.offsetAngle.toNat ≤ 8191) ∧
    (4096#16).toNat ≤ 8191 ∧ (4097#16).toNat ≤ 8191 ∧
    ((4096#16).toNat : Int) - (0#16).toNat ≤ 4096 ∧ ((0#16).toNat : Int) - (4096#16).toNat ≥ -4096 ∧
    ((4097#16).toNat : Int) - (0#16).toNat > 4096 ∧ ((0#16).toNat : Int) - (4097#16).toNat < -4096 := by decide +kernel

theorem witness_WarmUpFramesMoveThreeFields :
    ([] : List (Half × Half × Half × Byte)).length ≤ 51 ∧
    (List.replicate 51 ((700#16, 0x7FFF#16, 0x8000#16, 0xFF#8))).length ≤ 51 ∧
    (List.replicate 51 ((700#16, 0x7FFF#16, 0x8000#16, 0xFF#8))).getLast? = some (700#16, 0x7FFF#16, 0x8000#16, 0xFF#8) := by
  decide +kernel

theorem witness_MsRdAnswersTheSlot :
    State.reset.ms[(3#8).toNat]? = some MotorState.reset ∧ State.reset.ms.length ≤ (4#8).toNat := by decide +kernel

theorem witness_PidCfgWritesSixRegisters :
    State.reset.pid[(3#8).toNat]? = some PidController.reset ∧
    ((0#8 = 0#8 ∧ Mode.position = .position) ∧ (1#8 = 1#8 ∧ Mode.incremental = .incremental)) ∧
    allFinite PidController.reset [0xC2480000#32, 0x7F7FFFFF#32, 0, 0, 0x80000000#32] = true ∧
    allFinite PidController.reset [0x7F800000#32, 0, 0, 0, 0] = false := by decide +kernel

theorem witness_PidGainsWritesThreeRegisters :
    State.reset.pid[(0#8).toNat]? = some PidController.reset ∧
    allFinite PidController.reset [0x7F7FFFFF#32, 0, 0x80000000#32] = true ∧
    allFinite PidController.reset [0, 0, 0x7F800001#32] = false := by decide +kernel

theorem witness_PidLimWritesTwoRegisters :
    State.reset.pid[(3#8).toNat]? = some PidController.reset ∧
    allFinite PidController.reset [0xBF800000#32, 0x7F7FFFFF#32] = true ∧
    allFinite { PidController.reset with iOut := 0x7FC00000#32 } [0, 0] = false := by decide +kernel

/-- The selects 0, 7 and 19, and the first reserved one. -/
theorem witness_PidRdAnswersTheRegister :
    (oneAxis pAxis).pid[(0#8).toNat]? = some pAxis ∧
    [pAxis.p, pAxis.i, pAxis.d, pAxis.maxOut, pAxis.intLim, pAxis.maxErr, pAxis.deadband,
      (if pAxis.mode = .position then 0#32 else 1#32), pAxis.setHist.cur, pAxis.setHist.prev, pAxis.setHist.prev2,
      pAxis.getHist.cur, pAxis.getHist.prev, pAxis.getHist.prev2, pAxis.errHist.cur, pAxis.errHist.prev,
      pAxis.errHist.prev2, pAxis.iOut, pAxis.posOut, pAxis.incOut][(19#8).toNat]? = some 0#32 ∧
    20 ≤ (20#8).toNat := by decide +kernel

theorem witness_IndexOutOfRangeIsIgnored :
    State.reset.pid.length ≤ (4#8).toNat ∧ State.reset.ms.length ≤ (4#8).toNat := by decide +kernel

theorem witness_ReservedSubIsIgnored : 2 ≤ (2#8).toNat ∧ 3 ≤ (3#8).toNat ∧ 20 ≤ (20#8).toNat := by decide +kernel

/-- One operation of each of the two kinds. -/
theorem witness_ConfigurationAndReadsRepeat :
    ∃ i j : Instr, i = .pidLim 0 0x42C80000#32 0x40000000#32 ∧ j = .pidRd 0 5 ∧
      nextOf (exec i State.reset) ≠ none ∧ nextOf (exec j State.reset) ≠ none :=
  ⟨_, _, rfl, rfl, by decide +kernel, by decide +kernel⟩

theorem witness_FormedErrorIsNoNaN : isFinite 0x7F7FFFFF#32 = true ∧ isFinite 0xFF7FFFFF#32 = true := by decide +kernel

/-- `MAXERR = 100` and error 150; `DEADBAND = 2` and error 1.5 (S4, P4). -/
def tooFar : PidController := { pAxis with maxErr := 0x42C80000#32 }
def tooNear : PidController := { pAxis with deadband := 0x40000000#32 }

theorem witness_VoidedComputeChangesNoRegister :
    ((oneAxis tooFar).pid[(0#8).toNat]? = some tooFar ∧ domainOfSub 0 = some .none ∧ tooFar.mode = .position ∧
      fne0 tooFar.maxErr = true ∧
      fgt (fabs (formError (nanAt (oneAxis tooFar).opCount) .none 0 0x43160000#32)) tooFar.maxErr = true ∧
      inDomain tooFar [0, 0x43160000#32] = true ∧ inDomain tooFar [0, 0x43160000#32, 0] = true) ∧
    ((oneAxis tooNear).pid[(0#8).toNat]? = some tooNear ∧ fne0 tooNear.deadband = true ∧
      flt (fabs (formError (nanAt (oneAxis tooNear).opCount) .none 0 0x3FC00000#32)) tooNear.deadband = true ∧
      inDomain tooNear [0, 0x3FC00000#32] = true) := by decide +kernel

/-- |error| = MAXERR = 100 and |error| = DEADBAND = 100 are computed (S4, P4). -/
def justComputed (md : Mode) : PidController :=
  { pAxis with mode := md, maxErr := 0x42C80000#32, deadband := 0x42C80000#32 }

theorem witness_PositionComputeFollowsItsLaw :
    (oneAxis (justComputed .position)).pid[(0#8).toNat]? = some (justComputed .position) ∧
    domainOfSub 0 = some .none ∧ (justComputed .position).mode = .position ∧
    inDomain (justComputed .position) [0, 0x42C80000#32] = true ∧
    voids (justComputed .position)
      (formError (nanAt (oneAxis (justComputed .position)).opCount) .none 0 0x42C80000#32) = false := by decide +kernel

theorem witness_IncrementalComputeFollowsItsLaw :
    (oneAxis (justComputed .incremental)).pid[(0#8).toNat]? = some (justComputed .incremental) ∧
    domainOfSub 2 = some .degrees ∧ (justComputed .incremental).mode = .incremental ∧
    inDomain (justComputed .incremental) [0, 0x42C80000#32] = true ∧
    voids (justComputed .incremental)
      (formError (nanAt (oneAxis (justComputed .incremental)).opCount) .degrees 0 0x42C80000#32) = false := by
  decide +kernel

theorem witness_FeedbackComputeFollowsItsLaw :
    (oneAxis (justComputed .position)).pid[(0#8).toNat]? = some (justComputed .position) ∧
    domainOfSub 1 = some .rotary12bit ∧ (justComputed .position).mode = .position ∧
    inDomain (justComputed .position) [0, 0x42C80000#32, 0x42200000#32] = true ∧
    voids (justComputed .position)
      (formError (nanAt (oneAxis (justComputed .position)).opCount) .rotary12bit 0 0x42C80000#32) = false := by
  decide +kernel

/-- An axis with a limit of -1.0. -/
def badLimit : PidController := { pAxis with deadband := 0xBF800000#32 }

theorem witness_UnspecifiedComputeIsRefused :
    (oneAxis pAxis).pid[(0#8).toNat]? = some pAxis ∧ (2#8).toNat < 3 ∧ pAxis.mode = .position ∧
    allFinite pAxis [0x7FC00000#32, 0] = false ∧ allFinite pAxis [0, 0x7F800000#32] = false ∧
    allFinite pAxis [0, 0, 0xFF800000#32] = false ∧
    (oneAxis badLimit).pid[(0#8).toNat]? = some badLimit ∧ badLimit.mode = .position ∧
    allFinite badLimit [0, 0] = true ∧ allFinite badLimit [0, 0, 0] = true ∧ limitsOk badLimit = false ∧
    (oneAxis (justComputed .incremental)).pid[(0#8).toNat]? = some (justComputed .incremental) ∧
    (justComputed .incremental).mode = .incremental := by decide +kernel

/-- A compute and a configuration operation that complete, and ones that do not. -/
theorem witness_OnlyUnspecifiedOperationsStop :
    nextOf (exec (.pidGains 0 0x7F7FFFFF#32 0 0) (oneAxis pAxis)) ≠ none ∧
    nextOf (exec (.pidGains 0 0x7F800000#32 0 0) (oneAxis pAxis)) = none ∧
    nextOf (exec (.pidCalc 0 0 0 0x42C80000#32) (oneAxis pAxis)) ≠ none ∧
    nextOf (exec (.pidCalc 0 0 0 0x7F800000#32) (oneAxis pAxis)) = none := by decide +kernel

/-- Saturated and not, voided and not, in either mode, with a limit of -0.0. -/
theorem witness_ComputeResultsStayWithinLimits :
    (∀ c ∈ [pAxis, tooFar, justComputed .incremental, { pAxis with maxOut := 0x80000000#32 }],
      (oneAxis c).pid[(0#8).toNat]? = some c ∧ inDomain c [0, 0x43160000#32] = true ∧
        inDomain c [0, 0x43160000#32, 0x42200000#32] = true) ∧
    (2#8).toNat < 3 ∧ pAxis.mode = .position ∧ (justComputed .incremental).mode = .incremental := by decide +kernel

theorem witness_UnconfiguredAxisAnswersZero :
    State.reset.pid[(2#8).toNat]? = some PidController.reset ∧ domainOfSub 0 = some .none ∧ isFinite 0 = true ∧
    isFinite 0x41200000#32 = true ∧
    isFinite (formError (nanAt State.reset.opCount) .none 0 0x41200000#32) = true := by decide +kernel

/-- A frame, a read, and an operation that writes an axis, each with a next state. -/
theorem witness_OperationsWriteOnlyTheirOwnRecord :
    nextOf (exec (.frame 0x202 300 0 0 0) State.reset) ≠ none ∧ 0x202 ≠ State.reset.idBase + 0 ∧
    nextOf (exec (.msRd 0) State.reset) ≠ none ∧
    nextOf (exec (.pidGains 1 0 0 0) State.reset) ≠ none ∧ requestIndex (.pidGains 1 0 0 0) ≠ some 0 := by
  decide +kernel

/-- P11: a computation on the axis, and an operation that is none. -/
theorem witness_HistoryShiftsOncePerComputation :
    (State.reset.pid[2]? = some PidController.reset ∧ domainOfSub 0 = some .none ∧
      (nextOf (exec (.pidCalc 2 0 0 0x41200000#32) State.reset)).map (fun t => t.pid[2]?.map PidController.errHist) =
        some (some ⟨0x41200000#32, 0x41200000#32, 0⟩)) ∧
    (nextOf (exec (.pidGains 2 0 0 0) State.reset)).map (fun t => t.pid[2]?) = some (some PidController.reset) := by
  decide +kernel

theorem witness_StepKeepsInv :
    (withPorts [frame0] []).Inv ∧ nextOf (step (withPorts [frame0] [])) ≠ none ∧
    (withPorts [] [reqCalc]).Inv ∧ nextOf (step (withPorts [] [reqCalc])) ≠ none := by decide +kernel

theorem witness_ResetSatisfiesInv :
    Params.standard.Legal ∧ ({ nmotors := 256, naxes := 256, idWidth := 8, idBase := 0 } : Params).Legal := by
  decide +kernel

theorem witness_StepKeepsWarmUpInv :
    (oneSlot (slotAt 51 7 7)).WarmUpInv ∧ (oneSlot (slotAt 51 7 7)).NoWrapAhead ∧
    nextOf (step { oneSlot (slotAt 51 7 7) with tPort := [frame0] }) ≠ none ∧
    ({ oneSlot (slotAt 51 7 7) with tPort := [frame0] } : State).WarmUpInv ∧
    ({ oneSlot (slotAt 51 7 7) with tPort := [frame0] } : State).NoWrapAhead := by decide +kernel

/-- A sum that is not 0 and one that is, a difference that is not 0 and one that is. -/
theorem witness_AdditionRoundsOnce :
    isFinite 0x3F800000#32 = true ∧ isFinite 0xBF800000#32 = true ∧ isFinite 0x80000000#32 = true ∧
    units 0x3F800000#32 + units 0x3F800000#32 ≠ 0 ∧ units 0x3F800000#32 + units 0xBF800000#32 = 0 ∧
    units 0x80000000#32 + units 0x80000000#32 = 0 ∧
    units 0x3F800000#32 - units 0xBF800000#32 ≠ 0 ∧ units 0x3F800000#32 - units 0x3F800000#32 = 0 := by decide +kernel

theorem witness_MultiplicationRoundsOnce : isFinite 0x00000001#32 = true ∧ isFinite 0xFF7FFFFF#32 = true := by
  decide +kernel

theorem witness_DivisionRoundsOnce :
    isFinite 0x41A80000#32 = true ∧ isFinite 0x42C80000#32 = true ∧ isZero 0x42C80000#32 = false := by decide +kernel

theorem witness_ComparisonsCompareValues :
    isNaN 0x7F800001#32 = true ∧ isFinite 0x80000000#32 = true ∧ isFinite 0x7F7FFFFF#32 = true := by decide +kernel

/-- The first clause of R174 has a bit to speak of at both ends. -/
theorem witness_SignOperationsAreExact : 0 < 31 ∧ 30 < 31 ∧ ¬ 31 < 31 := by decide

/-- A limit of -0.0 and one of 50.0; a value beyond, one within, one at the bound, and the two infinities. -/
theorem witness_ClampIsTheNearestMember :
    (isFinite 0x80000000#32 = true ∧ isNegative 0x80000000#32 = false) ∧
    (isFinite 0x42480000#32 = true ∧ isNegative 0x42480000#32 = false) ∧
    (isNaN 0x447A0000#32 = false ∧ isFinite 0x447A0000#32 = true) ∧
    (isNaN 0xC2480000#32 = false ∧ isFinite 0xC2480000#32 = true ∧ -(units 0x42480000#32) ≤ units 0xC2480000#32 ∧
      units 0xC2480000#32 ≤ units 0x42480000#32) ∧
    isNaN (infinity false) = false ∧ isNaN (infinity true) = false := by decide +kernel

end Sys2Proof.Tests
end

/-!
PROOF. The invariant of the block (`00_scope.md` R6, `10_state.md` R15, R18, R30, `30_encoding.md` R61, `40_telemetry.md`
R98): the writes that keep it, the operations made of those writes, and the step.
-/

namespace Sys2Proof.Machine

/-! ### The records an operation writes -/

/-- A write to a register file keeps what holds of all its entries, if it holds of the one written. -/
theorem forall_mem_set {α : Type} {P : α → Prop} {l : List α} {n : Nat} {x : α} (hl : ∀ y ∈ l, P y) (hx : P x) :
    ∀ y ∈ l.set n x, P y := fun y hy =>
  (List.mem_or_eq_of_mem_set hy).elim (hl y) fun h => h ▸ hx

/-- The warm-up branch writes neither copy of the current, the steady-state branch loads both (R18). -/
theorem MotorState.Aliased.decodeFrame {m : MotorState} (hm : m.Aliased) (a cv g : Half) (h : Byte) :
    (m.decodeFrame a cv g h).Aliased := by
  rcases Nat.lt_or_ge 50 m.messageCount.toNat with hc | hc
  · rw [decodeFrame_of_steady a cv g h hc]
    rfl
  · rw [decodeFrame_of_warmUp a cv g h hc]
    exact hm

/-- The count after a warm-up decode is at most 51, and the steady-state branch recomputes `totalAngle` (R98), so the
premise on the slot before the frame is not needed, not even where the count wraps (R226). -/
theorem decodeFrame_unwrapped (m : MotorState) (a cv g : Half) (h : Byte) : (m.decodeFrame a cv g h).Unwrapped := by
  rcases Nat.lt_or_ge 50 m.messageCount.toNat with hc | hc
  · rw [decodeFrame_of_steady a cv g h hc]
    exact fun _ => rfl
  · rw [decodeFrame_of_warmUp a cv g h hc]
    intro hcount
    have : (m.messageCount + 1).toNat = m.messageCount.toNat + 1 := by bv_omega
    rw [MotorState.countFrame_messageCount, MotorState.warmUp_messageCount] at hcount
    omega

theorem shiftHistory_settled (c : PidController) : c.shiftHistory.Settled := ⟨rfl, rfl, rfl⟩

/-- A successful compute ends with the history shift (R135). -/
theorem computeWith_settled {nan : Nat → F32} {c c' : PidController} {dom : ErrorDomain} {meas sp out : F32}
    {law : PidController → F32 → PidController × F32} (h : computeWith nan c dom meas sp law = some (c', out)) :
    c'.Settled := by
  rcases computeWith_cases nan c dom meas sp law with ⟨hnone, -⟩ | ⟨r, -, -, hsome⟩
  · rw [hnone] at h
    cases h
  · rw [hsome] at h
    cases h
    exact shiftHistory_settled r.1

/-! ### The writes to the state -/

namespace State.Inv

variable {s t : State}

theorem respond (hs : s.Inv) (r : Response) : (s.respond r).Inv := hs

theorem ignore (hs : s.Inv) : s.ignore.Inv := hs.respond zeroResponse

theorem takeT (hs : s.Inv) {f : TFrame} {ts : List TFrame} (h : s.tPort = f :: ts) : (s.takeT ts).Inv := by
  obtain ⟨hlegal, hports, hslots, haxes⟩ := hs
  exact ⟨hlegal, fun g hg => hports g (h ▸ List.mem_cons_of_mem f hg), hslots, haxes⟩

theorem takeH (hs : s.Inv) (rs : List (BitVec 192)) : (s.takeH rs).Inv := hs

theorem setSlot (hs : s.Inv) (n : Nat) {m : MotorState} (ha : m.Aliased) (hu : m.Unwrapped) : (s.setSlot n m).Inv := by
  obtain ⟨hlegal, hports, hslots, haxes⟩ := hs
  exact ⟨by simpa [State.params] using hlegal, hports, forall_mem_set hslots ⟨ha, hu⟩, haxes⟩

theorem setAxis (hs : s.Inv) (n : Nat) {c : PidController} (hc : c.Settled) : (s.setAxis n c).Inv := by
  obtain ⟨hlegal, hports, hslots, haxes⟩ := hs
  exact ⟨by simpa [State.params] using hlegal, hports, hslots, forall_mem_set haxes hc⟩

/-- A write to an axis that leaves its three triples as they are. -/
theorem configure (hs : s.Inv) (n : Nat) {c c' : PidController} (hc : c.Settled) (hset : c'.setHist = c.setHist)
    (hget : c'.getHist = c.getHist) (herr : c'.errHist = c.errHist) : ((s.setAxis n c').respond zeroResponse).Inv := by
  have hc' : c'.Settled := by rwa [PidController.Settled, hset, hget, herr]
  exact (hs.setAxis n hc').respond zeroResponse

theorem commit (hs : s.Inv) (n : Nat) {o : Option (PidController × F32)}
    (ho : ∀ c out, o = some (c, out) → c.Settled) : (s.commit n o).Inv := by
  rcases o with _ | ⟨c, out⟩
  · exact hs.respond _
  · exact (hs.setAxis n (ho c out rfl)).respond _

/-! ### The shared shapes of an operation -/

theorem onAxis (hs : s.Inv) {idx : Byte} {k : PidController → StepOutcome} (h : onAxis idx s k = .next t)
    (hk : ∀ c, c.Settled → k c = .next t → t.Inv) : t.Inv := by
  rcases onAxis_next h with rfl | ⟨c, hc, hn⟩
  · exact hs.ignore
  · obtain ⟨-, -, -, haxes⟩ := hs
    exact hk c (haxes c (List.mem_of_getElem? hc)) hn

theorem onSub (hs : s.Inv) {α : Type} {o : Option α} {k : α → StepOutcome} (h : onSub o s k = .next t)
    (hk : ∀ x, k x = .next t → t.Inv) : t.Inv := by
  rcases onSub_next h with rfl | ⟨x, -, hn⟩
  · exact hs.ignore
  · exact hk x hn

theorem execFrame (hs : s.Inv) {id : Nat} {a cv g : Half} {hall : Byte} (h : execFrame id a cv g hall s = .next t) :
    t.Inv := by
  rcases execFrame_cases id a cv g hall s with ⟨hdrop, -⟩ | ⟨n, m, -, hm, hwrite⟩
  · rw [hdrop] at h
    cases h
    exact hs
  · rw [hwrite] at h
    cases h
    have ⟨_, _, hslots, _⟩ := hs
    obtain ⟨ha, -⟩ := hslots m (List.mem_of_getElem? hm)
    exact hs.setSlot n (ha.decodeFrame a cv g hall) (decodeFrame_unwrapped m a cv g hall)

/-! ### The operations and the step -/

/-- A configuration operation leaves the three triples of its axis as they are, a compute shifts them, a read writes
nothing. -/
theorem exec (hs : s.Inv) {i : Instr} (h : exec i s = .next t) : t.Inv := by
  cases i with
  | frame => exact hs.execFrame h
  | pidCfg =>
    refine hs.onAxis h fun c hc h => hs.onSub h fun mode h => ?_
    cases (onFinite_next h).2
    exact hs.configure _ hc rfl rfl rfl
  | pidGains =>
    refine hs.onAxis h fun c hc h => ?_
    cases (onFinite_next h).2
    exact hs.configure _ hc rfl rfl rfl
  | pidLim =>
    refine hs.onAxis h fun c hc h => ?_
    cases (onFinite_next h).2
    exact hs.configure _ hc rfl rfl rfl
  | pidCalc =>
    refine hs.onAxis h fun c _ h => hs.onSub h fun dom h => ?_
    split at h <;> cases h
    exact hs.commit _ fun _ _ => computeWith_settled
  | pidCalcFb =>
    refine hs.onAxis h fun c _ h => hs.onSub h fun dom h => ?_
    split at h
    · cases h
    · split at h <;> cases h
      exact hs.commit _ fun _ _ => computeWith_settled
  | pidRd =>
    refine hs.onAxis h fun c _ h => hs.onSub h fun reg h => ?_
    cases h
    exact hs.respond _
  | msRd =>
    simp only [Machine.exec, execMsRd] at h
    split at h <;> cases h
    · exact hs.ignore
    · exact hs.respond _

theorem perform (hs : s.Inv) {op : PortOp} (h : perform op s = .next t) : t.Inv := by
  rcases perform_cases op s with ⟨i, -, hi⟩ | ⟨code, -, hcode⟩
  · exact hs.exec (hi ▸ h)
  · rw [hcode] at h
    cases h
    exact hs.ignore

theorem step (hs : s.Inv) (h : step s = .next t) : t.Inv := by
  rcases step_cases s with ⟨-, -, hidle⟩ | ⟨f, ts, hport, hstep⟩ | ⟨r, rs, -, hstep⟩
  · rw [hidle] at h
    cases h
    exact hs
  · exact (hs.takeT hport).perform (hstep ▸ h)
  · exact (hs.takeH rs).perform (hstep ▸ h)

end State.Inv

/-! ### Reset and the obligations -/

/-- A slot after reset counts no frame and an axis holds +0.0 in every triple (R39). -/
theorem resetWith_inv {q : Params} (hq : q.Legal) : (State.resetWith q).Inv := by
  refine ⟨?_, ?_, fun m hm => ?_, fun c hc => ?_⟩
  · simpa [State.params, State.resetWith] using hq
  · exact fun f hf => absurd hf List.not_mem_nil
  · cases List.eq_of_mem_replicate hm
    exact ⟨rfl, fun hcount => absurd hcount (by decide)⟩
  · cases List.eq_of_mem_replicate hc
    exact ⟨rfl, rfl, rfl⟩

/-- Settles O43: a step performs at most one operation, and each operation is made of writes that keep the invariant. -/
theorem stepKeepsInv : Obligations.StepKeepsInv := fun _ _ hs h => hs.step h

/-- Settles O44: the state after reset is checked part by part. -/
theorem resetSatisfiesInv : Obligations.ResetSatisfiesInv := fun _ hq => resetWith_inv hq

end Sys2Proof.Machine

/-!
PROOF. Reset, warm-up and the histories of the controllers (`10_state.md` R21, R30, R34, R39; `40_telemetry.md` R93, R99;
`41_pid.md` R131, R135): what a decode does to a slot in warm-up, what an operation does to the triples of an axis.
-/

namespace Sys2Proof.Machine

/-! ### Warm-up (R21) -/

theorem decodeFrame_messageCount (m : MotorState) (a cv g : Half) (h : Byte) :
    (m.decodeFrame a cv g h).messageCount = m.messageCount + 1 := by
  rcases Nat.lt_or_ge 50 m.messageCount.toNat with hc | hc
  · rw [decodeFrame_of_steady a cv g h hc]
    rfl
  · rw [decodeFrame_of_warmUp a cv g h hc]
    rfl

/-- The frame counter before it wraps (R165). -/
theorem decodeFrame_messageCount_toNat {m : MotorState} (hm : m.messageCount.toNat < 2 ^ 32 - 1) (a cv g : Half)
    (h : Byte) : (m.decodeFrame a cv g h).messageCount.toNat = m.messageCount.toNat + 1 := by
  rw [decodeFrame_messageCount]
  bv_omega

/-- Both branches store the raw angle (R93, R94). -/
theorem decodeFrame_angle (m : MotorState) (a cv g : Half) (h : Byte) : (m.decodeFrame a cv g h).angle = a := by
  rcases Nat.lt_or_ge 50 m.messageCount.toNat with hc | hc
  · rw [decodeFrame_of_steady a cv g h hc]
    rfl
  · rw [decodeFrame_of_warmUp a cv g h hc]
    rfl

/-- The warm-up invariant of one slot (R21), the two parts of `State.WarmUpInv`. -/
def MotorState.WarmUpOk (m : MotorState) : Prop := m.WarmUpClear ∧ m.Referenced

theorem warmUpOk_reset : MotorState.reset.WarmUpOk := ⟨fun _ => ⟨rfl, rfl, rfl, rfl, rfl, rfl, rfl⟩, fun _ => rfl⟩

/-- A warm-up decode keeps the seven fields and makes the reference the raw angle; a steady-state decode leaves a count of
52 or more, where the invariant asks nothing, unless the count wraps. -/
theorem MotorState.WarmUpOk.decodeFrame {m : MotorState} (hm : m.WarmUpOk) (hwrap : m.messageCount.toNat < 2 ^ 32 - 1)
    (a cv g : Half) (h : Byte) : (m.decodeFrame a cv g h).WarmUpOk := by
  have hcount := decodeFrame_messageCount_toNat hwrap a cv g h
  rcases Nat.lt_or_ge 50 m.messageCount.toNat with hc | hc
  · have hpast : ¬ (m.decodeFrame a cv g h).messageCount.toNat ≤ 51 := by omega
    exact ⟨fun hle => absurd hle hpast, fun hle => absurd hle hpast⟩
  · obtain ⟨hclear, -⟩ := hm
    rw [decodeFrame_of_warmUp a cv g h hc]
    exact ⟨fun _ => hclear (by omega), fun _ => rfl⟩

/-- An operation of the H port writes no slot (R22). -/
theorem exec_ms_of_onHPort {i : Instr} {s t : State} (hi : onTPort i = false) (h : exec i s = .next t) :
    t.ms = s.ms := by
  obtain ⟨_, _, rfl, -, -⟩ := (exec_answeredAt hi h).rest
  rfl

namespace State.WarmUpInv

variable {s t : State}

theorem of_ms_eq (hs : s.WarmUpInv) (h : t.ms = s.ms) : t.WarmUpInv := fun m hm => hs m (h ▸ hm)

theorem execFrame (hs : s.WarmUpInv) (hwrap : s.NoWrapAhead) {id : Nat} {a cv g : Half} {hall : Byte}
    (h : execFrame id a cv g hall s = .next t) : t.WarmUpInv := by
  rcases execFrame_cases id a cv g hall s with ⟨hdrop, -⟩ | ⟨n, m, -, hm, hwrite⟩
  · rw [hdrop] at h
    cases h
    exact hs
  · rw [hwrite] at h
    cases h
    have hmem := List.mem_of_getElem? hm
    have hslot : m.WarmUpOk := hs m hmem
    exact forall_mem_set hs (hslot.decodeFrame (hwrap m hmem) a cv g hall)

theorem exec (hs : s.WarmUpInv) (hwrap : s.NoWrapAhead) {i : Instr} (h : exec i s = .next t) : t.WarmUpInv := by
  cases i with
  | frame => exact hs.execFrame hwrap h
  | _ => exact hs.of_ms_eq (exec_ms_of_onHPort rfl h)

theorem perform (hs : s.WarmUpInv) (hwrap : s.NoWrapAhead) {op : PortOp} (h : perform op s = .next t) :
    t.WarmUpInv := by
  rcases perform_cases op s with ⟨i, -, hi⟩ | ⟨code, -, hcode⟩
  · exact hs.exec hwrap (hi ▸ h)
  · rw [hcode] at h
    cases h
    exact hs.of_ms_eq s.ignore_ms

theorem step (hs : s.WarmUpInv) (hwrap : s.NoWrapAhead) (h : step s = .next t) : t.WarmUpInv := by
  rcases step_cases s with ⟨-, -, hidle⟩ | ⟨f, ts, -, hstep⟩ | ⟨r, rs, -, hstep⟩
  · rw [hidle] at h
    cases h
    exact hs
  · exact (hs.of_ms_eq (s.takeT_ms ts)).perform hwrap (hstep ▸ h)
  · exact (hs.of_ms_eq (s.takeH_ms rs)).perform hwrap (hstep ▸ h)

end State.WarmUpInv

/-- Settles O45: only a `FRAME` writes a slot, and a decode keeps the invariant of its slot. -/
theorem stepKeepsWarmUpInv : Obligations.StepKeepsWarmUpInv := fun _ _ hs hwrap h => hs.step hwrap h

/-! ### The frames after reset (R93, R99) -/

theorem decodeAll_concat (m : MotorState) (fs : List (Half × Half × Half × Byte)) (f : Half × Half × Half × Byte) :
    decodeAll m (fs ++ [f]) = (decodeAll m fs).decodeFrame f.1 f.2.1 f.2.2.1 f.2.2.2 := by
  simp [decodeAll]

theorem decodeAll_angle {m : MotorState} {fs : List (Half × Half × Half × Byte)} {f : Half × Half × Half × Byte}
    (h : fs.getLast? = some f) : (decodeAll m fs).angle = f.1 := by
  obtain ⟨before, rfl⟩ := List.getLast?_eq_some_iff.1 h
  rw [decodeAll_concat, decodeFrame_angle]

/-- Until the counter wraps, `messageCount` is the number of frames since reset, and the warm-up invariant holds. -/
theorem decodeAll_reset {fs : List (Half × Half × Half × Byte)} (hlen : fs.length < 2 ^ 32) :
    (decodeAll MotorState.reset fs).messageCount.toNat = fs.length ∧ (decodeAll MotorState.reset fs).WarmUpOk := by
  induction fs using List.reverseRecOn with
  | nil => exact ⟨rfl, warmUpOk_reset⟩
  | append_singleton fs f ih =>
    rw [List.length_append, List.length_singleton] at hlen ⊢
    obtain ⟨hcount, hok⟩ := ih (by omega)
    have hwrap : (decodeAll MotorState.reset fs).messageCount.toNat < 2 ^ 32 - 1 := by omega
    rw [decodeAll_concat]
    exact ⟨by rw [decodeFrame_messageCount_toNat hwrap, hcount], hok.decodeFrame hwrap _ _ _ _⟩

/-- Settles O21: with at most 51 frames counted, both parts of the warm-up invariant apply. -/
theorem warmUpFramesMoveThreeFields : Obligations.WarmUpFramesMoveThreeFields := by
  intro fs hlen
  obtain ⟨hcount, hclear, href⟩ := decodeAll_reset (fs := fs) (by omega)
  have hwarm : (decodeAll MotorState.reset fs).messageCount.toNat ≤ 51 := hcount ▸ hlen
  obtain ⟨htotal, hround, hlast, hcur, hgiven, hvel, hhall⟩ := hclear hwarm
  exact ⟨hcount, href hwarm, htotal, hround, hlast, hcur, hgiven, hvel, hhall, fun _ => decodeAll_angle⟩

/-! ### The histories of the controllers (R34, R135) -/

/-- The three triples and the three accumulators are as before (R34). -/
def PidController.SameHistory (c c' : PidController) : Prop :=
  c'.setHist = c.setHist ∧ c'.getHist = c.getHist ∧ c'.errHist = c.errHist ∧ c'.iOut = c.iOut ∧
    c'.posOut = c.posOut ∧ c'.incOut = c.incOut

theorem PidController.SameHistory.refl (c : PidController) : c.SameHistory c := ⟨rfl, rfl, rfl, rfl, rfl, rfl⟩

/-- The triples hold the values of one call and are shifted once (R131, R135); gains, limits and mode are as before. -/
def PidController.RecordsCall (c c' : PidController) (setpoint measurement error : F32) : Prop :=
  c'.setHist = ⟨setpoint, setpoint, c.setHist.prev⟩ ∧ c'.getHist = ⟨measurement, measurement, c.getHist.prev⟩ ∧
    c'.errHist = ⟨error, error, c.errHist.prev⟩ ∧ c'.p = c.p ∧ c'.i = c.i ∧ c'.d = c.d ∧ c'.maxOut = c.maxOut ∧
    c'.intLim = c.intLim ∧ c'.maxErr = c.maxErr ∧ c'.deadband = c.deadband ∧ c'.mode = c.mode

/-- The two axes differ in their accumulators at most. -/
def PidController.EqButAccumulators (c c' : PidController) : Prop :=
  ∃ iOut posOut incOut, c' = { c with iOut := iOut, posOut := posOut, incOut := incOut }

/-- A law writes the accumulators and nothing else (R132, R133). -/
theorem modeLaw_eqButAccumulators (nan : Nat → F32) (c : PidController) (error : F32) :
    c.EqButAccumulators (modeLaw nan c error).1 := by
  unfold modeLaw
  cases c.mode with
  | position => exact ⟨_, _, c.incOut, rfl⟩
  | incremental => exact ⟨_, c.posOut, _, rfl⟩

theorem feedbackLaw_eqButAccumulators (nan : Nat → F32) (c : PidController) (error feedback : F32) :
    c.EqButAccumulators (feedbackLaw nan c error feedback).1 := ⟨_, _, c.incOut, rfl⟩

/-- A successful compute around a law that writes accumulators only records its own call. -/
theorem computeWith_recordsCall {nan : Nat → F32} {c c' : PidController} {dom : ErrorDomain} {meas sp out : F32}
    {law : PidController → F32 → PidController × F32}
    (hlaw : ∀ (c : PidController) error, c.EqButAccumulators (law c error).1)
    (h : computeWith nan c dom meas sp law = some (c', out)) : c.RecordsCall c' sp meas (formError nan dom meas sp) := by
  rcases computeWith_cases nan c dom meas sp law with ⟨hnone, -⟩ | ⟨r, hr, -, hsome⟩
  · rw [hnone] at h
    cases h
  · rw [hsome] at h
    cases h
    obtain ⟨iOut, posOut, incOut, hacc⟩ := hlaw (c.recordCurrent sp meas (formError nan dom meas sp))
      (formError nan dom meas sp)
    rw [hr, hacc]
    exact ⟨rfl, rfl, rfl, rfl, rfl, rfl, rfl, rfl, rfl, rfl, rfl⟩

/-- The operation is a compute on the axis `idx` with these operands. -/
def IsComputeOf (i : Instr) (idx sub : Byte) (measurement setpoint : F32) : Prop :=
  i = .pidCalc idx sub measurement setpoint ∨ ∃ feedback, i = .pidCalcFb idx sub measurement setpoint feedback

/-- What `i`, performed in `s`, may do to the history of the axis `n`: nothing, or the record of its own call. -/
def HistoryMove (i : Instr) (s : State) (n : Nat) (c c' : PidController) : Prop :=
  c.SameHistory c' ∨
    ∃ (idx sub : Byte) (dom : ErrorDomain) (m sp : F32), idx.toNat = n ∧ domainOfSub sub = some dom ∧
      IsComputeOf i idx sub m sp ∧ c.RecordsCall c' sp m (formError (nanAt s.opCount) dom m sp)

/-- `HistoryMove` on every axis there is before and after. -/
def HistoryMoves (i : Instr) (s t : State) : Prop :=
  ∀ (n : Nat) (c c' : PidController), s.pid[n]? = some c → t.pid[n]? = some c' → HistoryMove i s n c c'

namespace HistoryMoves

variable {i : Instr} {s t : State}

theorem of_pid_eq (h : t.pid = s.pid) : HistoryMoves i s t := by
  intro n c c' hc hc'
  rw [h, hc] at hc'
  cases hc'
  exact .inl (.refl c)

/-- A write to one axis leaves every other one as it is. -/
theorem setAxis_respond {k : Nat} {c c' : PidController} (r : Response) (hc : s.pid[k]? = some c)
    (hmove : HistoryMove i s k c c') : HistoryMoves i s ((s.setAxis k c').respond r) := by
  intro n d d' hd hd'
  rw [State.respond_pid, State.setAxis_pid] at hd'
  by_cases hkn : k = n
  · subst hkn
    obtain ⟨hlt, -⟩ := List.getElem?_eq_some_iff.1 hc
    rw [List.getElem?_set_self hlt] at hd'
    cases hc.symm.trans hd
    cases hd'
    exact hmove
  · rw [List.getElem?_set_ne hkn, hd] at hd'
    cases hd'
    exact .inl (.refl d)

theorem onAxis {idx : Byte} {k : PidController → StepOutcome} (h : onAxis idx s k = .next t)
    (hk : ∀ c, s.pid[idx.toNat]? = some c → k c = .next t → HistoryMoves i s t) : HistoryMoves i s t := by
  rcases onAxis_next h with rfl | ⟨c, hc, hn⟩
  · exact of_pid_eq rfl
  · exact hk c hc hn

theorem onSub {α : Type} {o : Option α} {k : α → StepOutcome} (h : onSub o s k = .next t)
    (hk : ∀ x, o = some x → k x = .next t → HistoryMoves i s t) : HistoryMoves i s t := by
  rcases onSub_next h with rfl | ⟨x, hx, hn⟩
  · exact of_pid_eq rfl
  · exact hk x hx hn

/-- A voided compute writes nothing, a successful one records its call on its axis (R130, R131). -/
theorem commit_computeWith {idx sub : Byte} {c : PidController} {dom : ErrorDomain} {meas sp : F32}
    {law : PidController → F32 → PidController × F32} (hc : s.pid[idx.toNat]? = some c)
    (hdom : domainOfSub sub = some dom) (hi : IsComputeOf i idx sub meas sp)
    (hlaw : ∀ (c : PidController) error, c.EqButAccumulators (law c error).1) :
    HistoryMoves i s (s.commit idx.toNat (computeWith (nanAt s.opCount) c dom meas sp law)) := by
  cases ho : computeWith (nanAt s.opCount) c dom meas sp law with
  | none => exact of_pid_eq rfl
  | some r =>
    exact setAxis_respond _ hc (.inr ⟨idx, sub, dom, meas, sp, rfl, hdom, hi, computeWith_recordsCall hlaw ho⟩)

theorem execFrame {id : Nat} {a cv g : Half} {hall : Byte} (h : execFrame id a cv g hall s = .next t) :
    HistoryMoves i s t := by
  rcases execFrame_cases id a cv g hall s with ⟨hdrop, -⟩ | ⟨n, m, -, -, hwrite⟩
  · rw [hdrop] at h
    cases h
    exact of_pid_eq rfl
  · rw [hwrite] at h
    cases h
    exact of_pid_eq rfl

theorem exec (h : exec i s = .next t) : HistoryMoves i s t := by
  cases i with
  | frame => exact execFrame h
  | pidCfg =>
    refine onAxis h fun c hc h => onSub h fun mode _ h => ?_
    cases (onFinite_next h).2
    exact setAxis_respond _ hc (.inl (.refl c))
  | pidGains =>
    refine onAxis h fun c hc h => ?_
    cases (onFinite_next h).2
    exact setAxis_respond _ hc (.inl (.refl c))
  | pidLim =>
    refine onAxis h fun c hc h => ?_
    cases (onFinite_next h).2
    exact setAxis_respond _ hc (.inl (.refl c))
  | pidCalc =>
    refine onAxis h fun c hc h => onSub h fun dom hdom h => ?_
    split at h <;> cases h
    exact commit_computeWith hc hdom (.inl rfl) (modeLaw_eqButAccumulators _)
  | pidCalcFb =>
    refine onAxis h fun c hc h => onSub h fun dom hdom h => ?_
    split at h
    · cases h
    · split at h <;> cases h
      exact commit_computeWith hc hdom (.inr ⟨_, rfl⟩) fun c error => feedbackLaw_eqButAccumulators _ c error _
  | pidRd =>
    refine onAxis h fun c _ h => onSub h fun reg _ h => ?_
    cases h
    exact of_pid_eq rfl
  | msRd =>
    simp only [Machine.exec, execMsRd] at h
    split at h <;> cases h <;> exact of_pid_eq rfl

end HistoryMoves

/-- Settles O42: a configuration operation keeps the history of its axis, a compute records its call, everything else
writes no axis. -/
theorem historyShiftsOncePerComputation : Obligations.HistoryShiftsOncePerComputation := fun _ _ _ h =>
  HistoryMoves.exec h

/-! ### Reset (R39) -/

/-- Every register of a controller after reset reads as the zero pattern, `MODE` included (R25, D23). -/
theorem read_reset (r : PidReg) : PidController.reset.read r = 0 := by
  cases r <;> rfl

/-- Settles O10: every entry of a register file after reset is a copy of the reset record. -/
theorem resetLeavesZeros : Obligations.ResetLeavesZeros := by
  intro q
  refine ⟨List.length_replicate, List.length_replicate, fun m hm => ?_, fun c hc => ?_⟩
  · cases List.eq_of_mem_replicate hm
    exact ⟨rfl, rfl⟩
  · cases List.eq_of_mem_replicate hc
    exact ⟨rfl, read_reset⟩

/-- Settles O46: every slot after reset is the reset slot, whose count is 0. -/
theorem resetSatisfiesWarmUpInv : Obligations.ResetSatisfiesWarmUpInv := by
  intro q
  refine ⟨fun m hm => ?_, fun m hm => ?_⟩
  · cases List.eq_of_mem_replicate hm
    exact warmUpOk_reset
  · cases List.eq_of_mem_replicate hm
    decide

end Sys2Proof.Machine

/-!
PROOF. The total order of operations (`20_memory.md` R51, R52, R53): which operation a step performs, that a frame and an
operation of the H port commute, and that configuration operations and reads may be repeated.
-/

namespace Sys2Proof.Machine

/-! ### The operation a step performs (R52, R53) -/

section Step

variable {s : State} {f : TFrame} {ts : List TFrame} {r : BitVec 192} {hs : List (BitVec 192)}

theorem step_of_idle (ht : s.tPort = []) (hh : s.hPort = []) : step s = .next s := by
  simp only [step, ht, hh]

theorem step_of_frame_only (ht : s.tPort = f :: ts) (hh : s.hPort = []) : step s = performT f ts s := by
  simp only [step, ht, hh]

theorem step_of_request_only (ht : s.tPort = []) (hh : s.hPort = r :: hs) : step s = performH r hs s := by
  simp only [step, ht, hh]

theorem step_of_both (ht : s.tPort = f :: ts) (hh : s.hPort = r :: hs) :
    step s = if Config.arbTakesT s.opCount then performT f ts s else performH r hs s := by
  simp only [step, ht, hh]

end Step

/-- Every frame decodes (R61). -/
theorem performT_eq_exec (f : TFrame) (ts : List TFrame) (s : State) :
    performT f ts s = exec (decodeFrame f.id f.data) (s.takeT ts) := rfl

theorem performH_of_instr {r : BitVec 192} {i : Instr} (h : decodeRequest r = .instr i) (hs : List (BitVec 192))
    (s : State) : performH r hs s = exec i (s.takeH hs) := by
  simp only [performH, perform, decode, h]

theorem performH_of_reservedOpcode {r : BitVec 192} {code : BitVec 4} (h : decodeRequest r = .reservedOpcode code)
    (hs : List (BitVec 192)) (s : State) : performH r hs s = .next (s.takeH hs).ignore := by
  simp only [performH, perform, decode, h]

/-- What a step does with a request first on the H port, whatever the T port presents, once what the request does is
known. -/
theorem step_of_request {s : State} {r : BitVec 192} {hs : List (BitVec 192)} {host : StepOutcome}
    (hh : s.hPort = r :: hs) (hhost : performH r hs s = host) :
    (s.tPort = [] → step s = host) ∧
    ∀ f ts, s.tPort = f :: ts →
      step s = if Config.arbTakesT s.opCount then exec (decodeFrame f.id f.data) (s.takeT ts) else host := by
  subst hhost
  exact ⟨fun ht => step_of_request_only ht hh, fun f ts ht => step_of_both ht hh⟩

/-- Settles O6: the four cases of what the ports present, and for a request the two answers of the decoder. -/
theorem stepPerformsTheOldestOperation : Obligations.StepPerformsTheOldestOperation := by
  intro s
  refine ⟨step_of_idle, fun f ts => step_of_frame_only, fun r hs hh => ?_⟩
  cases hd : decodeRequest r with
  | instr i => exact step_of_request hh (performH_of_instr hd hs s)
  | reservedOpcode code => exact step_of_request hh (performH_of_reservedOpcode hd hs s)

/-! ### A frame and an operation of the H port (R53) -/

theorem execFrame_of_unknown_id {s : State} {id : Nat} (hid : id < s.idBase ∨ s.idBase + s.ms.length ≤ id)
    (a cv g : Half) (h : Byte) : execFrame id a cv g h s = .next s := by
  rcases execFrame_cases id a cv g h s with ⟨hdrop, -⟩ | ⟨n, m, rfl, hm, -⟩
  · exact hdrop
  · obtain ⟨hn, -⟩ := List.getElem?_eq_some_iff.1 hm
    omega

theorem execFrame_of_slot {s : State} {n : Nat} {m : MotorState} (hm : s.ms[n]? = some m) (a cv g : Half) (h : Byte) :
    execFrame (s.idBase + n) a cv g h s = .next (s.setSlot n (m.decodeFrame a cv g h)) := by
  obtain ⟨hn, -⟩ := List.getElem?_eq_some_iff.1 hm
  simp only [execFrame, route_base_add hn, hm]

/-- A write to a slot and the commit of a compute touch different parts of the state. -/
theorem State.commit_setSlot (s : State) (n : Nat) (m : MotorState) (k : Nat) (o : Option (PidController × F32)) :
    (s.setSlot n m).commit k o = (s.commit k o).setSlot n m := by
  rcases o with _ | ⟨c, out⟩ <;> rfl

section SetSlot

variable {s t : State} {n : Nat} {m : MotorState}

/-- An operation on an axis answers alike after a write to a slot, if what it does on the axis does. -/
theorem onAxis_setSlot {idx : Byte} {k k' : PidController → StepOutcome} (h : onAxis idx s k = .next t)
    (hk : ∀ c, k c = .next t → k' c = .next (t.setSlot n m)) :
    onAxis idx (s.setSlot n m) k' = .next (t.setSlot n m) := by
  cases hc : s.pid[idx.toNat]? with
  | none =>
    rw [onAxis_none hc] at h
    cases h
    exact onAxis_none hc
  | some c =>
    rw [onAxis_some hc] at h
    have hc' : (s.setSlot n m).pid[idx.toNat]? = some c := hc
    exact (onAxis_some hc').trans (hk c h)

theorem onSub_setSlot {α : Type} {o : Option α} {k k' : α → StepOutcome} (h : onSub o s k = .next t)
    (hk : ∀ x, k x = .next t → k' x = .next (t.setSlot n m)) :
    onSub o (s.setSlot n m) k' = .next (t.setSlot n m) := by
  cases o with
  | none => cases h; rfl
  | some x => exact hk x h

theorem onFinite_setSlot {mn : String} {c : PidController} {ops : List F32} {u : State}
    (h : onFinite mn c ops (.next u) = .next t) :
    onFinite mn c ops (.next (u.setSlot n m)) = .next (t.setSlot n m) := by
  obtain ⟨hfin, hu⟩ := onFinite_next h
  cases hu
  exact onFinite_of_true hfin _

/-- The heart of R53: an operation of the H port that completes does the same around a write to a slot it does not read. -/
theorem exec_setSlot {j : Instr} (hj : onTPort j = false) (hread : ∀ idx, j = .msRd idx → n ≠ idx.toNat)
    (h : exec j s = .next t) : exec j (s.setSlot n m) = .next (t.setSlot n m) := by
  cases j with
  | frame => cases hj
  | pidCfg => exact onAxis_setSlot h fun c h => onSub_setSlot h fun mode h => onFinite_setSlot h
  | pidGains => exact onAxis_setSlot h fun c h => onFinite_setSlot h
  | pidLim => exact onAxis_setSlot h fun c h => onFinite_setSlot h
  | pidCalc =>
    refine onAxis_setSlot h fun c h => onSub_setSlot h fun dom h => ?_
    split at h <;> cases h
    exact congrArg Host.Outcome.next (State.commit_setSlot s n m _ _)
  | pidCalcFb =>
    refine onAxis_setSlot h fun c h => onSub_setSlot h fun dom h => ?_
    split at h
    · cases h
    · split at h <;> cases h
      exact congrArg Host.Outcome.next (State.commit_setSlot s n m _ _)
  | pidRd =>
    refine onAxis_setSlot h fun c h => onSub_setSlot h fun reg h => ?_
    cases h
    rfl
  | msRd idx =>
    have hslot : (s.setSlot n m).ms[idx.toNat]? = s.ms[idx.toNat]? := List.getElem?_set_ne (hread idx rfl)
    simp only [exec, execMsRd, hslot] at h ⊢
    cases hm : s.ms[idx.toNat]? with
    | none =>
      rw [hm] at h
      cases h
      rfl
    | some slot =>
      rw [hm] at h
      cases h
      rfl

end SetSlot

/-- No operation of the H port moves the identifier range (R6). -/
theorem exec_idBase_of_onHPort {i : Instr} {s t : State} (hi : onTPort i = false) (h : exec i s = .next t) :
    t.idBase = s.idBase := by
  obtain ⟨_, _, rfl, -, -⟩ := (exec_answeredAt hi h).rest
  rfl

/-- Settles O9: a dropped frame changes nothing in either order; any other is a write to its slot. -/
theorem frameCommutesWithHostOperation : Obligations.FrameCommutesWithHostOperation := by
  intro s s2 id a cv g h j hj hread hexec
  have hms : s2.ms = s.ms := exec_ms_of_onHPort hj hexec
  have hbase : s2.idBase = s.idBase := exec_idBase_of_onHPort hj hexec
  rcases execFrame_cases id a cv g h s with ⟨hdrop, hid⟩ | ⟨n, m, rfl, hm, hwrite⟩
  · rw [← hms, ← hbase] at hid
    exact ⟨s, s2, hdrop, hexec, execFrame_of_unknown_id hid a cv g h⟩
  · have hother : ∀ idx, j = .msRd idx → n ≠ idx.toNat := fun idx hi hn => hread idx hi (congrArg (s.idBase + ·) hn)
    rw [← hms] at hm
    exact ⟨_, _, hwrite, exec_setSlot hj hother hexec, hbase ▸ execFrame_of_slot hm a cv g h⟩

/-! ### Repeated operations (R51) -/

/-- The shape of the three configuration operations: on finite operands and registers, the write `w` to the axis. -/
def configure (mn : String) (idx : Byte) (operands : List F32) (w : PidController → PidController) (s : State) :
    StepOutcome :=
  onAxis idx s fun c => onFinite mn c operands (.next ((s.setAxis idx.toNat (w c)).respond zeroResponse))

theorem exec_pidCfg_of_mode {sub : Byte} {mode : Mode} (h : modeOfSub sub = some mode) (idx : Byte)
    (maxOut intLim p i d : F32) (s : State) :
    exec (.pidCfg idx sub maxOut intLim p i d) s =
      configure "PID.CFG" idx [maxOut, intLim, p, i, d]
        (fun c => { c with mode := mode, maxOut := maxOut, intLim := intLim, p := p, i := i, d := d }) s := by
  simp only [exec, execPidCfg, h, onSub_some, configure]

theorem exec_pidCfg_of_reserved {sub : Byte} (h : modeOfSub sub = none) (idx : Byte) (maxOut intLim p i d : F32)
    (s : State) : exec (.pidCfg idx sub maxOut intLim p i d) s = .next s.ignore := by
  simp only [exec, execPidCfg, h, onSub_none]
  cases hc : s.pid[idx.toNat]? with
  | none => exact onAxis_none hc
  | some c => exact onAxis_some hc

theorem exec_pidGains_eq_configure (idx : Byte) (p i d : F32) (s : State) :
    exec (.pidGains idx p i d) s = configure "PID.GAINS" idx [p, i, d] (fun c => { c with p := p, i := i, d := d }) s :=
  rfl

theorem exec_pidLim_eq_configure (idx : Byte) (maxErr deadband : F32) (s : State) :
    exec (.pidLim idx maxErr deadband) s =
      configure "PID.LIM" idx [maxErr, deadband] (fun c => { c with maxErr := maxErr, deadband := deadband }) s := rfl

/-- A write that stores nothing but operands stays on the specified domain. -/
theorem allFinite_of_floats {c c' : PidController} {ops : List F32} (h : allFinite c ops = true)
    (hsub : c'.floats ⊆ c.floats ++ ops) : allFinite c' ops = true := by
  simp only [allFinite, Bool.and_eq_true, List.all_eq_true] at h ⊢
  obtain ⟨hregs, hops⟩ := h
  exact ⟨fun x hx => (List.mem_append.1 (hsub hx)).elim (hregs x) (hops x), hops⟩

/-- A second write of the same operands finds them stored and completes again. -/
theorem configure_repeats {mn : String} {idx : Byte} {ops : List F32} {w : PidController → PidController} {s t : State}
    (hw : ∀ c, w (w c) = w c) (hsub : ∀ c, (w c).floats ⊆ c.floats ++ ops)
    (h : configure mn idx ops w s = .next t) :
    ∃ u, configure mn idx ops w t = .next u ∧ u.pid = t.pid ∧ u.ms = t.ms := by
  cases hc : s.pid[idx.toNat]? with
  | none =>
    rw [configure, onAxis_none hc] at h
    cases h
    exact ⟨_, onAxis_none hc, rfl, rfl⟩
  | some c =>
    rw [configure, onAxis_some hc] at h
    obtain ⟨hfin, ht⟩ := onFinite_next h
    cases ht
    obtain ⟨hlt, -⟩ := List.getElem?_eq_some_iff.1 hc
    have hstored : (s.pid.set idx.toNat (w c))[idx.toNat]? = some (w c) := List.getElem?_set_self hlt
    refine ⟨_, (onAxis_some hstored).trans (onFinite_of_true (allFinite_of_floats hfin (hsub c)) _), ?_, rfl⟩
    simp [hw]

/-- A read answers from the register files alone, and its answer is all it leaves. -/
def AnswersFromRegisters (i : Instr) : Prop :=
  ∀ s : State, ∃ answer, ∀ s' : State, s'.pid = s.pid → s'.ms = s.ms → exec i s' = .next (s'.respond answer)

theorem pidRd_answersFromRegisters (idx sub : Byte) : AnswersFromRegisters (.pidRd idx sub) := by
  intro s
  cases hc : s.pid[idx.toNat]? with
  | none => exact ⟨zeroResponse, fun s' hpid _ => onAxis_none (hpid ▸ hc)⟩
  | some c =>
    cases hreg : regOfSub sub with
    | none =>
      refine ⟨zeroResponse, fun s' hpid _ => (onAxis_some (hpid ▸ hc)).trans ?_⟩
      simp only [hreg, onSub_none, State.ignore]
    | some reg =>
      refine ⟨scalarResponse (c.read reg), fun s' hpid _ => (onAxis_some (hpid ▸ hc)).trans ?_⟩
      simp only [hreg, onSub_some]

theorem msRd_answersFromRegisters (idx : Byte) : AnswersFromRegisters (.msRd idx) := by
  intro s
  cases hm : s.ms[idx.toNat]? with
  | none => exact ⟨zeroResponse, fun s' _ hms => by simp only [exec, execMsRd, hms, hm, State.ignore]⟩
  | some m => exact ⟨slotResponse m, fun s' _ hms => by simp only [exec, execMsRd, hms, hm]⟩

theorem AnswersFromRegisters.repeats {i : Instr} (hi : AnswersFromRegisters i) (s : State) :
    ∃ t u answer, exec i s = .next t ∧ exec i t = .next u ∧ t.pid = s.pid ∧ t.ms = s.ms ∧
      u.pid = s.pid ∧ u.ms = s.ms ∧ t.responses = s.responses ++ [answer] ∧
      u.responses = s.responses ++ [answer, answer] := by
  obtain ⟨answer, hexec⟩ := hi s
  exact ⟨_, _, answer, hexec s rfl rfl, hexec (s.respond answer) rfl rfl, rfl, rfl, rfl, rfl, rfl, by simp⟩

/-- Settles O29: a configuration operation is an idempotent write, or is ignored; a read leaves the registers it
answers from. -/
theorem configurationAndReadsRepeat : Obligations.ConfigurationAndReadsRepeat := by
  intro s i
  cases i with
  | frame => trivial
  | pidCalc => trivial
  | pidCalcFb => trivial
  | pidCfg idx sub maxOut intLim p i d =>
    intro t h
    cases hmode : modeOfSub sub with
    | none =>
      exact ⟨_, exec_pidCfg_of_reserved hmode idx maxOut intLim p i d t, rfl, rfl⟩
    | some mode =>
      simp only [exec_pidCfg_of_mode hmode] at h ⊢
      exact configure_repeats (fun _ => rfl) (fun c => by simp [PidController.floats]) h
  | pidGains idx p i d =>
    intro t h
    exact configure_repeats (fun _ => rfl) (fun c => by simp [PidController.floats]) h
  | pidLim idx maxErr deadband =>
    intro t h
    exact configure_repeats (fun _ => rfl) (fun c => by simp [PidController.floats]) h
  | pidRd idx sub => exact (pidRd_answersFromRegisters idx sub).repeats s
  | msRd idx => exact (msRd_answersFromRegisters idx).repeats s

end Sys2Proof.Machine

/-!
PROOF. The encodings (`30_encoding.md` R61 to R70, R77, R82): the fields of a request, what the decoder reads from each
operation code and from a frame, which bits it leaves unread, and the words of a response.
-/

namespace Sys2Proof.Machine

/-! ### The words and fields of a request (R66) -/

@[simp] theorem reqWord_packRequest (w0 w1 w2 w3 w4 w5 : Word) :
    reqWord (packRequest w0 w1 w2 w3 w4 w5) 0 = w0 ∧ reqWord (packRequest w0 w1 w2 w3 w4 w5) 1 = w1 ∧
    reqWord (packRequest w0 w1 w2 w3 w4 w5) 2 = w2 ∧ reqWord (packRequest w0 w1 w2 w3 w4 w5) 3 = w3 ∧
    reqWord (packRequest w0 w1 w2 w3 w4 w5) 4 = w4 ∧ reqWord (packRequest w0 w1 w2 w3 w4 w5) 5 = w5 := by
  simp only [reqWord, packRequest, BitVec.extractLsb'_append_eq_ite]
  simp

@[simp] theorem idxField_header (op : BitVec 4) (idx sub : Byte) : idxField (header op idx sub) = idx := by
  simp only [idxField, header, BitVec.extractLsb'_append_eq_ite]
  simp

@[simp] theorem subField_header (op : BitVec 4) (idx sub : Byte) : subField (header op idx sub) = sub := by
  simp only [subField, header, BitVec.extractLsb'_append_eq_ite]
  simp

/-- The operation code of a request is the `op` field of its first word. -/
theorem requestOp_eq_opField (req : BitVec 192) : requestOp req = (opField (reqWord req 0)).toNat := by
  have hbits : req.extractLsb' 188 4 = opField (reqWord req 0) := by
    ext k hk
    simp [opField, reqWord, BitVec.getLsbD_extractLsb', ← Nat.add_assoc]
    omega
  exact congrArg BitVec.toNat hbits

@[simp] theorem requestOp_packRequest_header (op : BitVec 4) (idx sub : Byte) (w1 w2 w3 w4 w5 : Word) :
    requestOp (packRequest (header op idx sub) w1 w2 w3 w4 w5) = op.toNat := by
  rw [requestOp_eq_opField, Laws.OpcodeOnPort.opField_packed]

/-! ### What the decoder reads (R62, R64, R67, R68) -/

section DecodeRequest

variable {req : BitVec 192}

theorem decodeRequest_pidCfg (h : requestOp req = 1) :
    decodeRequest req = .instr (.pidCfg (idxField (reqWord req 0)) (subField (reqWord req 0)) (reqWord req 1)
      (reqWord req 2) (reqWord req 3) (reqWord req 4) (reqWord req 5)) := by
  simp only [decodeRequest, ← requestOp_eq_opField, h]

theorem decodeRequest_pidGains (h : requestOp req = 2) :
    decodeRequest req =
      .instr (.pidGains (idxField (reqWord req 0)) (reqWord req 1) (reqWord req 2) (reqWord req 3)) := by
  simp only [decodeRequest, ← requestOp_eq_opField, h]

theorem decodeRequest_pidLim (h : requestOp req = 3) :
    decodeRequest req = .instr (.pidLim (idxField (reqWord req 0)) (reqWord req 1) (reqWord req 2)) := by
  simp only [decodeRequest, ← requestOp_eq_opField, h]

theorem decodeRequest_pidCalc (h : requestOp req = 4) :
    decodeRequest req = .instr (.pidCalc (idxField (reqWord req 0)) (subField (reqWord req 0)) (reqWord req 1)
      (reqWord req 2)) := by
  simp only [decodeRequest, ← requestOp_eq_opField, h]

theorem decodeRequest_pidCalcFb (h : requestOp req = 5) :
    decodeRequest req = .instr (.pidCalcFb (idxField (reqWord req 0)) (subField (reqWord req 0)) (reqWord req 1)
      (reqWord req 2) (reqWord req 3)) := by
  simp only [decodeRequest, ← requestOp_eq_opField, h]

theorem decodeRequest_pidRd (h : requestOp req = 6) :
    decodeRequest req = .instr (.pidRd (idxField (reqWord req 0)) (subField (reqWord req 0))) := by
  simp only [decodeRequest, ← requestOp_eq_opField, h]

theorem decodeRequest_msRd (h : requestOp req = 7) :
    decodeRequest req = .instr (.msRd (idxField (reqWord req 0))) := by
  simp only [decodeRequest, ← requestOp_eq_opField, h]

theorem decodeRequest_reserved (h : requestOp req = 0 ∨ 8 ≤ requestOp req) :
    decodeRequest req = .reservedOpcode (opField (reqWord req 0)) := by
  rw [requestOp_eq_opField] at h
  simp only [decodeRequest]
  split
  case h_8 => rfl
  all_goals omega

end DecodeRequest

theorem decodeFrame_append (id : Nat) (a cv g : Half) (h b7 : Byte) :
    decodeFrame id (a ++ cv ++ g ++ h ++ b7) = .frame id a cv g h := by
  simp only [decodeFrame, BitVec.extractLsb'_append_eq_ite]
  simp

/-- Settles O1: the header of an encoding names its operation, and each operand stands in the field it is read from. -/
theorem encodedOperationDecodes : Obligations.EncodedOperationDecodes := by
  intro i
  cases i with
  | frame id a cv g h => exact congrArg Decoded.instr (decodeFrame_append id a cv g h 0#8)
  | pidCfg => simp [encode, decode, decodeRequest_pidCfg]
  | pidGains => simp [encode, decode, decodeRequest_pidGains]
  | pidLim => simp [encode, decode, decodeRequest_pidLim]
  | pidCalc => simp [encode, decode, decodeRequest_pidCalc]
  | pidCalcFb => simp [encode, decode, decodeRequest_pidCalcFb]
  | pidRd => simp [encode, decode, decodeRequest_pidRd]
  | msRd => simp [encode, decode, decodeRequest_msRd]

/-! ### The bits that are not read (R77) -/

/-- A field that a mask keeps in full is unchanged by it. -/
theorem extractLsb'_and_of_full {n start len : Nat} {mask : BitVec n}
    (h : mask.extractLsb' start len = BitVec.allOnes len) (x : BitVec n) :
    (x &&& mask).extractLsb' start len = x.extractLsb' start len := by
  rw [BitVec.extractLsb'_and, h, BitVec.and_allOnes]

theorem reqWord_and (x y : BitVec 192) (k : Nat) : reqWord (x &&& y) k = reqWord x k &&& reqWord y k :=
  BitVec.extractLsb'_and

/-- Every request has its operation code read. -/
theorem opField_and_readMask (req : BitVec 192) (op : Nat) :
    opField (reqWord (req &&& readMask op) 0) = opField (reqWord req 0) := by
  have hfull : opField (reqWord (readMask op) 0) = BitVec.allOnes 4 := by
    unfold readMask
    split <;> simp [opField]
  rw [reqWord_and]
  exact extractLsb'_and_of_full hfull _

theorem requestOp_and_readMask (req : BitVec 192) (op : Nat) : requestOp (req &&& readMask op) = requestOp req := by
  rw [requestOp_eq_opField, opField_and_readMask, requestOp_eq_opField]

/-- Every operation of the H port reads `idx`. -/
theorem idxField_and_readMask {op : Nat} (hop : 1 ≤ op ∧ op ≤ 7) (req : BitVec 192) :
    idxField (reqWord (req &&& readMask op) 0) = idxField (reqWord req 0) := by
  have hfull : idxField (reqWord (readMask op) 0) = BitVec.allOnes 8 := by
    obtain ⟨hpos, hle⟩ := hop
    interval_cases op <;> simp [readMask, idxField]
  rw [reqWord_and]
  exact extractLsb'_and_of_full hfull _

/-- The operations that read `sub` (R69, R72). -/
theorem subField_and_readMask {op : Nat} (hop : op = 1 ∨ op = 4 ∨ op = 5 ∨ op = 6) (req : BitVec 192) :
    subField (reqWord (req &&& readMask op) 0) = subField (reqWord req 0) := by
  have hfull : subField (reqWord (readMask op) 0) = BitVec.allOnes 8 := by
    rcases hop with rfl | rfl | rfl | rfl <;> simp [readMask, subField]
  rw [reqWord_and]
  exact extractLsb'_and_of_full hfull _

/-- How many of the words after the header are operands (R68). -/
def operandCount : Nat → Nat
  | 1 => 5
  | 2 => 3
  | 3 => 2
  | 4 => 2
  | 5 => 3
  | _ => 0

theorem reqWord_and_readMask {op k : Nat} (hk : 1 ≤ k ∧ k ≤ operandCount op) (req : BitVec 192) :
    reqWord (req &&& readMask op) k = reqWord req k := by
  have hfull : reqWord (readMask op) k = BitVec.allOnes 32 := by
    obtain ⟨hpos, hle⟩ := hk
    unfold operandCount at hle
    split at hle <;> interval_cases k <;> simp [readMask]
  exact extractLsb'_and_of_full hfull _

/-- No operation reads a bit outside its mask. -/
theorem decodeRequest_and_readMask (req : BitVec 192) :
    decodeRequest (req &&& readMask (requestOp req)) = decodeRequest req := by
  have hop := requestOp_and_readMask req (requestOp req)
  generalize hcode : requestOp req = code at hop ⊢
  by_cases hres : code = 0 ∨ 8 ≤ code
  · rw [decodeRequest_reserved (by omega), decodeRequest_reserved (by omega), opField_and_readMask]
  · have hlisted : code = 1 ∨ code = 2 ∨ code = 3 ∨ code = 4 ∨ code = 5 ∨ code = 6 ∨ code = 7 := by omega
    rcases hlisted with rfl | rfl | rfl | rfl | rfl | rfl | rfl
    · simp [decodeRequest_pidCfg hop, decodeRequest_pidCfg hcode, idxField_and_readMask, subField_and_readMask,
        reqWord_and_readMask, operandCount]
    · simp [decodeRequest_pidGains hop, decodeRequest_pidGains hcode, idxField_and_readMask, reqWord_and_readMask,
        operandCount]
    · simp [decodeRequest_pidLim hop, decodeRequest_pidLim hcode, idxField_and_readMask, reqWord_and_readMask,
        operandCount]
    · simp [decodeRequest_pidCalc hop, decodeRequest_pidCalc hcode, idxField_and_readMask, subField_and_readMask,
        reqWord_and_readMask, operandCount]
    · simp [decodeRequest_pidCalcFb hop, decodeRequest_pidCalcFb hcode, idxField_and_readMask, subField_and_readMask,
        reqWord_and_readMask, operandCount]
    · simp [decodeRequest_pidRd hop, decodeRequest_pidRd hcode, idxField_and_readMask, subField_and_readMask]
    · simp [decodeRequest_msRd hop, decodeRequest_msRd hcode, idxField_and_readMask]

/-- Byte 7 of a frame is not read (R64). -/
theorem decodeFrame_and (id : Nat) (data : BitVec 64) :
    decodeFrame id (data &&& 0xFFFFFFFFFFFFFF00#64) = decodeFrame id data := by
  simp only [decodeFrame]
  congr 1 <;> exact extractLsb'_and_of_full (by decide) _

theorem perform_congr {op op' : PortOp} (s : State) (h : decode op = decode op') : perform op s = perform op' s := by
  simp only [perform, h]

/-- Settles O2: the decoder gives the same operation without the ignored bits, and the warm-up branch takes the angle
alone. -/
theorem ignoredBitsHaveNoEffect : Obligations.IgnoredBitsHaveNoEffect := by
  refine ⟨fun req s => ?_, fun id data s => ?_, fun m a cv g cv' g' h h' hm => ?_⟩
  · exact perform_congr s (decodeRequest_and_readMask req)
  · exact perform_congr s (congrArg Decoded.instr (decodeFrame_and id data))
  · rw [decodeFrame_of_warmUp a cv g h hm, decodeFrame_of_warmUp a cv' g' h' hm]

/-! ### The worked encodings and the values of `sub` (R69, R82) -/

/-- Settles O3: each worked request, and the frame, is the encoding of its operation with the bits written out. -/
theorem workedEncodingsDecode : Obligations.WorkedEncodingsDecode := by
  refine ⟨by decide +kernel, by decide +kernel, by decide +kernel, by decide +kernel, by decide +kernel,
    by decide +kernel, by decide +kernel, ?_, ?_, ?_, by decide +kernel, ?_⟩
  · exact encodedOperationDecodes (.pidCalc 0#8 2#8 0xC32A0000#32 0x432A0000#32)
  · exact encodedOperationDecodes
      (.pidCfg 1#8 1#8 0x42480000#32 0x41A00000#32 0x3F800000#32 0x3F000000#32 0x00000000#32)
  · exact encodedOperationDecodes (.msRd 3#8)
  · exact encodedOperationDecodes (.frame 0x201 8100#16 0#16 0#16 0#8)

/-- Settles O4: the values listed, and the rest reserved. -/
theorem subFieldsNameTheirValues : Obligations.SubFieldsNameTheirValues := by
  intro sub
  simp only [modeOfSub, domainOfSub, ← BitVec.toNat_inj]
  constructor
  · split <;> simp_all
  · split <;> simp_all

/-- Settles O5: word by word. -/
theorem responseWordsStandInOrder : Obligations.ResponseWordsStandInOrder := by
  intro r
  simp only [Response.hRdata, BitVec.extractLsb'_append_eq_ite]
  simp

end Sys2Proof.Machine

/-!
PROOF. One answer for each request (`30_encoding.md` R65), what `MS.RD` answers (R71), and the operations that are
dropped or answered with zeros: a reserved operation code (R73), a reserved `sub` (R74), an index that names nothing
(R75), an unknown identifier (R76).
-/

namespace Sys2Proof.Machine

/-! ### One answer for each request (R65) -/

/-- A `FRAME` moves neither port and answers nothing. -/
theorem execFrame_ports {id : Nat} {a cv g : Half} {hall : Byte} {s t : State}
    (h : execFrame id a cv g hall s = .next t) :
    t.tPort = s.tPort ∧ t.hPort = s.hPort ∧ t.responses = s.responses := by
  rcases execFrame_cases id a cv g hall s with ⟨hdrop, -⟩ | ⟨n, m, -, -, hwrite⟩
  · rw [hdrop] at h
    cases h
    exact ⟨rfl, rfl, rfl⟩
  · rw [hwrite] at h
    cases h
    exact ⟨rfl, rfl, rfl⟩

/-- A request performed moves neither port and is answered once, a reserved operation code as well (R73). -/
theorem perform_request_answers {r : BitVec 192} {s t : State} (h : perform (.h r) s = .next t) :
    t.tPort = s.tPort ∧ t.hPort = s.hPort ∧ ∃ answer, t.responses = s.responses ++ [answer] := by
  rcases perform_cases (.h r) s with ⟨i, hdec, hi⟩ | ⟨code, -, hcode⟩
  · obtain ⟨_, answer, rfl, -, -⟩ := (exec_answeredAt (onTPort_of_decodeRequest hdec) (hi ▸ h)).rest
    exact ⟨rfl, rfl, answer, rfl⟩
  · rw [hcode] at h
    cases h
    exact ⟨rfl, rfl, zeroResponse, rfl⟩

/-- Settles O8: the operation a step takes is the head of its port, and only a request is answered. -/
theorem eachRequestIsAnsweredOnceInOrder : Obligations.EachRequestIsAnsweredOnceInOrder := by
  intro s t h
  rcases step_cases s with ⟨-, -, hidle⟩ | ⟨f, ts, hport, hstep⟩ | ⟨r, rs, hport, hstep⟩
  · rw [hidle] at h
    cases h
    exact .inl rfl
  · obtain ⟨htaken, hother, hanswers⟩ := execFrame_ports (hstep ▸ h)
    exact .inr (.inl ⟨f, by rw [hport, htaken, State.takeT_tPort], hother, hanswers⟩)
  · obtain ⟨hother, htaken, answer, hanswers⟩ := perform_request_answers (hstep ▸ h)
    exact .inr (.inr ⟨r, answer, by rw [hport, htaken, State.takeH_hPort], hother, hanswers⟩)

/-! ### `MS.RD`, and what is dropped or answered with zeros (R71, R73 to R76) -/

/-- Settles O7: a reserved operation code decodes to no operation, by itself and as the first request of the H port. -/
theorem reservedOpcodeIsIgnored : Obligations.ReservedOpcodeIsIgnored := by
  intro s r hop
  have hdec : decodeRequest r = .reservedOpcode (opField (reqWord r 0)) := decodeRequest_reserved hop
  refine ⟨?_, fun hs ht hh => ?_⟩
  · simp only [perform, decode, hdec]
    rfl
  · exact (step_of_request_only ht hh).trans (performH_of_reservedOpcode hdec hs s)

/-- Settles O12: no slot has the identifier. -/
theorem frameWithUnknownIdIsDropped : Obligations.FrameWithUnknownIdIsDropped := fun _ _ a cv g h hid =>
  execFrame_of_unknown_id hid a cv g h

theorem exec_msRd_of_slot {s : State} {idx : Byte} {m : MotorState} (hm : s.ms[idx.toNat]? = some m) :
    exec (.msRd idx) s = .next (s.respond (slotResponse m)) := by
  simp only [exec, execMsRd, hm]

theorem exec_msRd_of_no_slot {s : State} {idx : Byte} (h : s.ms.length ≤ idx.toNat) :
    exec (.msRd idx) s = .next s.ignore := by
  simp only [exec, execMsRd, List.getElem?_eq_none h]

/-- R71: `hallState` is the low byte of its word, the upper bits are 0. -/
theorem slotResponse_eq (m : MotorState) :
    slotResponse m = ⟨m.totalAngle, m.roundCount, m.messageCount, m.angle ++ m.lastAngle, m.offsetAngle ++ m.current,
      m.velocity ++ m.givenCurrent, 0#24 ++ m.hallState⟩ := by
  have hhall : m.hallState.setWidth 32 = 0#24 ++ m.hallState := BitVec.setWidth_eq_append (by decide)
  rw [slotResponse, hhall]

/-- Settles O22: the two cases of the index. -/
theorem msRdAnswersTheSlot : Obligations.MsRdAnswersTheSlot := by
  refine fun s idx => ⟨fun m hm => ?_, exec_msRd_of_no_slot⟩
  rw [exec_msRd_of_slot hm, slotResponse_eq]
  rfl

/-- Settles O27: each operation on an axis looks its axis up first. -/
theorem indexOutOfRangeIsIgnored : Obligations.IndexOutOfRangeIsIgnored := by
  refine fun s idx sub u v w x y => ⟨fun hidx => ?_, exec_msRd_of_no_slot⟩
  have hc : s.pid[idx.toNat]? = none := List.getElem?_eq_none hidx
  exact ⟨onAxis_none hc, onAxis_none hc, onAxis_none hc, onAxis_none hc, onAxis_none hc, onAxis_none hc⟩

theorem modeOfSub_of_reserved {sub : Byte} (h : 2 ≤ sub.toNat) : modeOfSub sub = none := by
  unfold modeOfSub
  split
  case h_3 => rfl
  all_goals omega

theorem domainOfSub_of_reserved {sub : Byte} (h : 3 ≤ sub.toNat) : domainOfSub sub = none := by
  unfold domainOfSub
  split
  case h_4 => rfl
  all_goals omega

theorem regOfSub_of_reserved {sub : Byte} (h : 20 ≤ sub.toNat) : regOfSub sub = none :=
  List.getElem?_eq_none h

/-- A request with a reserved `sub` is ignored whether or not its axis exists (R74, R75). -/
theorem onAxis_onSub_none {α : Type} {o : Option α} (h : o = none) (idx : Byte) (s : State)
    (k : PidController → α → StepOutcome) : onAxis idx s (fun c => onSub o s (k c)) = .next s.ignore := by
  subst h
  cases hc : s.pid[idx.toNat]? with
  | none => exact onAxis_none hc
  | some c => exact onAxis_some hc

/-- Settles O28: a reserved `sub` names no mode, no domain and no register, and a voided computation answers +0.0, whose
bits are 0. -/
theorem reservedSubIsIgnored : Obligations.ReservedSubIsIgnored := by
  refine fun s idx sub u v w x y => ⟨fun hsub => ?_, fun hsub => ?_, fun hsub => ?_, fun n => rfl⟩
  · exact exec_pidCfg_of_reserved (modeOfSub_of_reserved hsub) idx u v w x y s
  · have hdom := domainOfSub_of_reserved hsub
    exact ⟨onAxis_onSub_none hdom idx s _, onAxis_onSub_none hdom idx s _⟩
  · exact onAxis_onSub_none (regOfSub_of_reserved hsub) idx s _

end Sys2Proof.Machine

/-!
PROOF. The Telemetry Decoder (`40_telemetry.md` R90 to R99, R102, R103, R162 to R164): the slot a frame writes, the
current divided by -5, the shortest step of the unwrapped angle. And the operations that do not complete (R101, R141,
R177, R194).
-/

namespace Sys2Proof.Machine

/-! ### The slot a frame writes (R90 to R99) -/

theorem exec_frame_of_slot {s : State} {n : Nat} {m : MotorState} (hm : s.ms[n]? = some m) (a cv g : Half) (h : Byte) :
    exec (.frame (s.idBase + n) a cv g h) s = .next (s.setSlot n (m.decodeFrame a cv g h)) :=
  execFrame_of_slot hm a cv g h

/-- Settles O13: the frame reaches its slot, and the warm-up branch decodes it. -/
theorem frameInWarmUpWritesItsSlot : Obligations.FrameInWarmUpWritesItsSlot := by
  intro s n m a cv g h hm hcount
  rw [exec_frame_of_slot hm, decodeFrame_of_warmUp a cv g h hcount]
  rfl

/-- R162: the detector, with the turn count counted as a word. -/
theorem nextRoundCount_eq_ite (rc : Word) (d : Int) :
    nextRoundCount rc d = if d > 4096 then rc - 1 else if d < -4096 then rc + 1 else rc := by
  split
  next hgt => exact nextRoundCount_of_gt hgt
  next hle =>
    split
    next hlt => exact nextRoundCount_of_lt hlt
    next hge => exact nextRoundCount_of_mid (by omega) (by omega)

/-- Settles O14: the frame reaches its slot, the steady-state branch decodes it, and the detector has its three cases. -/
theorem frameInSteadyStateWritesItsSlot : Obligations.FrameInSteadyStateWritesItsSlot := by
  intro s n m a cv g h hm hcount d rounds
  have hrounds : nextRoundCount m.roundCount (angleStep a m.angle) = rounds := nextRoundCount_eq_ite _ _
  rw [exec_frame_of_slot hm, decodeFrame_of_steady a cv g h hcount, ← hrounds]
  rfl

/-! ### The current divided by -5 (R96, R164) -/

theorem natAbs_tdiv_five_le (g : Half) : (g.toInt.tdiv 5).natAbs ≤ 6553 := by
  have hlo : -2 ^ 15 ≤ g.toInt := BitVec.le_toInt g
  have hhi : g.toInt < 2 ^ 15 := BitVec.toInt_lt
  have hquot : (g.toInt.tdiv 5).natAbs = g.toInt.natAbs / 5 := Int.natAbs_tdiv _ _
  omega

/-- The quotient fits sixteen bits, so storing it loses nothing. -/
theorem givenCurrentOf_toInt (g : Half) : (givenCurrentOf g).toInt = -(g.toInt.tdiv 5) := by
  have hquot := natAbs_tdiv_five_le g
  rw [givenCurrentOf, givenDiv, Int.tdiv_neg, BitVec.toInt_ofInt]
  exact Int.bmod_eq_of_le (by omega) (by omega)

/-- Settles O17: truncation is the floor of a value that is not negative, and of the magnitude of one that is. -/
theorem givenCurrentTruncatesTowardZero : Obligations.GivenCurrentTruncatesTowardZero := by
  intro g
  rw [givenCurrentOf_toInt]
  refine ⟨fun hpos => ?_, fun hneg => ?_, ?_⟩
  · rw [Int.tdiv_eq_ediv_of_nonneg hpos]
  · rw [← Int.neg_tdiv, Int.tdiv_eq_ediv_of_nonneg (by omega)]
  · rw [Int.natAbs_neg]
    exact natAbs_tdiv_five_le g

/-! ### The shortest step (R97, R98, R102, R103) -/

/-- The difference `d` of two raw angles, less the turn the detector counts for it. -/
def shortestStep (d : Int) : Int := if d > 4096 then d - 8192 else if d < -4096 then d + 8192 else d

theorem shortestStep_of_mid {d : Int} (hlo : -4096 ≤ d) (hhi : d ≤ 4096) : shortestStep d = d := by
  rw [shortestStep, if_neg (by omega), if_neg (by omega)]

theorem shortestStep_of_gt {d : Int} (h : d > 4096) : shortestStep d = d - 8192 := if_pos h

theorem shortestStep_of_lt {d : Int} (h : d < -4096) : shortestStep d = d + 8192 := by
  rw [shortestStep, if_neg (by omega), if_pos h]

/-- Between raw angles of one turn the shortest step is at most half a turn. -/
theorem shortestStep_bounds {d : Int} (hlo : -8191 ≤ d) (hhi : d ≤ 8191) :
    -4096 ≤ shortestStep d ∧ shortestStep d ≤ 4096 := by
  unfold shortestStep
  split <;> omega

/-- A turn count away from its ends takes the counted turn without a wrap: the turns and the difference together move by
the shortest step. -/
theorem nextRoundCount_turns {rc : Word} (hlo : -2147483648 < rc.toInt) (hhi : rc.toInt < 2147483647) (d : Int) :
    (nextRoundCount rc d).toInt * 8192 + d = rc.toInt * 8192 + shortestStep d := by
  rw [nextRoundCount_eq_ite]
  unfold shortestStep
  split
  · have hdown : (rc - 1).toInt = rc.toInt - 1 := by
      rw [BitVec.toInt_sub]
      exact Int.bmod_eq_of_le (by simp; omega) (by simp; omega)
    omega
  · split
    · have hup : (rc + 1).toInt = rc.toInt + 1 := by
        rw [BitVec.toInt_add]
        exact Int.bmod_eq_of_le (by simp; omega) (by simp; omega)
      omega
    · rfl

/-- A `totalAngle` that is exact keeps the turn count far from its ends (R163). -/
theorem MotorState.ExactTotal.roundCount_bounds {m : MotorState} (hm : m.ExactTotal) :
    -2147483648 < m.roundCount.toInt ∧ m.roundCount.toInt < 2147483647 := by
  have hlo : -2 ^ 31 ≤ m.totalAngle.toInt := BitVec.le_toInt _
  have hhi : m.totalAngle.toInt < 2 ^ 31 := BitVec.toInt_lt
  have hangle := m.angle.isLt
  have hoffset := m.offsetAngle.isLt
  rw [hm] at hlo hhi
  omega

/-- The frame moves an exact `totalAngle` that stays exact by the shortest step from the raw angle before. -/
theorem decodeFrame_totalAngle_moved {m : MotorState} {a cv g : Half} {h : Byte} (hcount : 51 ≤ m.messageCount.toNat)
    (hm : m.ExactTotal) (hm' : (m.decodeFrame a cv g h).ExactTotal) :
    (m.decodeFrame a cv g h).totalAngle.toInt - m.totalAngle.toInt = shortestStep (angleStep a m.angle) := by
  obtain ⟨hlo, hhi⟩ := hm.roundCount_bounds
  have hturns := nextRoundCount_turns hlo hhi (angleStep a m.angle)
  rw [hm', hm, decodeFrame_of_steady a cv g h hcount]
  simp only [MotorState.countFrame_roundCount, MotorState.countFrame_angle, MotorState.countFrame_offsetAngle,
    MotorState.steady_roundCount, MotorState.steady_angle, MotorState.steady_offsetAngle]
  have hstep : angleStep a m.angle = (a.toNat : Int) - (m.angle.toNat : Int) := rfl
  omega

/-- Settles O19: the second frame moves `totalAngle` by the shortest step from the first raw angle. -/
theorem unwrapIsContinuous : Obligations.UnwrapIsContinuous := by
  intro m a1 a2 cv1 cv2 g1 g2 h1 h2 m1 m2 step moved _ hcount ha1 ha2 hexact1 hexact2
  have hmoved : moved = shortestStep step := by
    have hangle : m1.angle = a1 := decodeFrame_angle m a1 cv1 g1 h1
    have hmove : moved = shortestStep (angleStep a2 m1.angle) := decodeFrame_totalAngle_moved hcount hexact1 hexact2
    rwa [hangle] at hmove
  have hbounds : -4096 ≤ shortestStep step ∧ shortestStep step ≤ 4096 := shortestStep_bounds (by omega) (by omega)
  rw [hmoved]
  exact ⟨shortestStep_of_mid, shortestStep_of_gt, shortestStep_of_lt, hbounds⟩

/-- From no turns, the unwrapped angle is the shortest step from the zero reference. -/
theorem unwrappedAngle_first {a o : Half} (ha : a.toNat ≤ 8191) (ho : o.toNat ≤ 8191) :
    (unwrappedAngle (nextRoundCount 0 (angleStep a o)) a o).toInt = shortestStep (angleStep a o) := by
  have hstep : angleStep a o = (a.toNat : Int) - (o.toNat : Int) := rfl
  have hturns := nextRoundCount_turns (rc := 0) (by decide) (by decide) (angleStep a o)
  have hbounds := shortestStep_bounds (d := angleStep a o) (by omega) (by omega)
  have hzero : (0 : Word).toInt = 0 := rfl
  have hsum : (nextRoundCount 0 (angleStep a o)).toInt * 8192 + (a.toNat : Int) - (o.toNat : Int) =
      shortestStep (angleStep a o) := by omega
  rw [unwrappedAngle_toInt, hsum]
  exact Int.bmod_eq_of_le (by omega) (by omega)

/-- Settles O20: the warm-up invariant gives no turns and the zero reference as the raw angle before. -/
theorem firstSteadyAngleIsTheShortestStep : Obligations.FirstSteadyAngleIsTheShortestStep := by
  intro m a cv g h hclear href hcount ha ho d total
  obtain ⟨-, hround, -⟩ := hclear (by omega)
  have hoffset : m.offsetAngle = m.angle := href (by omega)
  have hdecode := decodeFrame_of_steady a cv g h (show 51 ≤ m.messageCount.toNat by omega)
  have htotal : total = shortestStep d := by
    simp only [total, hdecode, MotorState.countFrame_totalAngle, MotorState.steady_totalAngle, hround, ← hoffset]
    exact unwrappedAngle_first ha ho
  rw [htotal, hdecode]
  exact ⟨hround, hoffset.symm, shortestStep_of_mid, shortestStep_of_gt, shortestStep_of_lt⟩

/-! ### The operations that complete (R101, R141, R177, R194) -/

theorem completes_next (t : State) : Completes (.next t) := ⟨t, rfl⟩

theorem not_completes_refused (r : Refusal) : ¬ Completes (.refused r) := nofun

/-- An operation on an axis stops for what happens there alone: without the axis it is ignored (R75). -/
theorem completes_onAxis {idx : Byte} {s : State} {k : PidController → StepOutcome} :
    Completes (onAxis idx s k) ↔ ∀ c, s.pid[idx.toNat]? = some c → Completes (k c) := by
  cases hc : s.pid[idx.toNat]? with
  | none => simp [onAxis_none hc, completes_next]
  | some c => simp [onAxis_some hc]

/-- A reserved `sub` does not stop an operation (R74). -/
theorem completes_onSub {α : Type} {o : Option α} {s : State} {k : α → StepOutcome} :
    Completes (onSub o s k) ↔ ∀ x, o = some x → Completes (k x) := by
  cases o with
  | none => simp [completes_next]
  | some x => simp

/-- The same where the operation stops or not whatever value `sub` names. -/
theorem completes_onSub_const {α : Type} {o : Option α} {s : State} {k : α → StepOutcome} {named go : Prop}
    (hnamed : (∃ x, o = some x) ↔ named) (hk : ∀ x, Completes (k x) ↔ go) :
    Completes (onSub o s k) ↔ (named → go) := by
  simp only [completes_onSub, hk, ← hnamed, forall_exists_index]

theorem completes_onFinite {mn : String} {c : PidController} {ops : List F32} {t : State} :
    Completes (onFinite mn c ops (.next t)) ↔ allFinite c ops = true := by
  constructor
  · rintro ⟨u, hu⟩
    exact (onFinite_next hu).1
  · intro hfin
    rw [onFinite_of_true hfin]
    exact completes_next t

/-- An outcome that `domainStop` decides is a next state on the specified domain only (R177). -/
theorem completes_iff_inDomain (mn : String) {c : PidController} {ops : List F32} {o : StepOutcome}
    (hstop : ∀ r, domainStop mn c ops = some r → o = .refused r) (hgo : domainStop mn c ops = none → Completes o) :
    Completes o ↔ inDomain c ops = true := by
  rw [← domainStop_eq_none (mn := mn)]
  cases hd : domainStop mn c ops with
  | none => simp [hgo hd]
  | some r => simp [hstop r hd, not_completes_refused]

theorem exists_modeOfSub_iff (sub : Byte) : (∃ mode, modeOfSub sub = some mode) ↔ sub.toNat < 2 := by
  rcases Nat.lt_or_ge sub.toNat 2 with hlt | hge
  · refine iff_of_true ?_ hlt
    unfold modeOfSub
    interval_cases sub.toNat <;> simp
  · exact iff_of_false (by simp [modeOfSub_of_reserved hge]) (Nat.not_lt.2 hge)

theorem exists_domainOfSub_iff (sub : Byte) : (∃ dom, domainOfSub sub = some dom) ↔ sub.toNat < 3 := by
  rcases Nat.lt_or_ge sub.toNat 3 with hlt | hge
  · refine iff_of_true ?_ hlt
    unfold domainOfSub
    interval_cases sub.toNat <;> simp
  · exact iff_of_false (by simp [domainOfSub_of_reserved hge]) (Nat.not_lt.2 hge)

section Completes

variable (s : State) (idx sub : Byte)

theorem completes_pidCfg (maxOut intLim p i d : F32) :
    Completes (exec (.pidCfg idx sub maxOut intLim p i d) s) ↔
      ∀ c, s.pid[idx.toNat]? = some c → sub.toNat < 2 → allFinite c [maxOut, intLim, p, i, d] = true :=
  completes_onAxis.trans <| forall₂_congr fun _ _ =>
    completes_onSub_const (exists_modeOfSub_iff sub) fun _ => completes_onFinite

theorem completes_pidGains (p i d : F32) :
    Completes (exec (.pidGains idx p i d) s) ↔ ∀ c, s.pid[idx.toNat]? = some c → allFinite c [p, i, d] = true :=
  completes_onAxis.trans <| forall₂_congr fun _ _ => completes_onFinite

theorem completes_pidLim (maxErr deadband : F32) :
    Completes (exec (.pidLim idx maxErr deadband) s) ↔
      ∀ c, s.pid[idx.toNat]? = some c → allFinite c [maxErr, deadband] = true :=
  completes_onAxis.trans <| forall₂_congr fun _ _ => completes_onFinite

theorem completes_pidCalc (meas sp : F32) :
    Completes (exec (.pidCalc idx sub meas sp) s) ↔
      ∀ c, s.pid[idx.toNat]? = some c → sub.toNat < 3 → inDomain c [meas, sp] = true := by
  refine completes_onAxis.trans <| forall₂_congr fun c _ =>
    completes_onSub_const (exists_domainOfSub_iff sub) fun dom => ?_
  exact completes_iff_inDomain "PID.CALC" (fun r hd => by simp only [hd]) (fun hd => by simp only [hd, completes_next])

/-- In incremental mode the feedback variant stops before its domain is looked at (R141). -/
theorem completes_pidCalcFb (meas sp fb : F32) :
    Completes (exec (.pidCalcFb idx sub meas sp fb) s) ↔
      ∀ c, s.pid[idx.toNat]? = some c → sub.toNat < 3 → c.mode = .position ∧ inDomain c [meas, sp, fb] = true := by
  refine completes_onAxis.trans <| forall₂_congr fun c _ =>
    completes_onSub_const (exists_domainOfSub_iff sub) fun dom => ?_
  cases hmode : c.mode with
  | incremental => simp [not_completes_refused]
  | position =>
    simp only [true_and]
    exact completes_iff_inDomain "PID.CALCFB" (fun r hd => by simp only [hd])
      (fun hd => by simp only [hd, completes_next])

theorem completes_frame (id : Nat) (a cv g : Half) (h : Byte) : Completes (exec (.frame id a cv g h) s) := by
  rcases execFrame_cases id a cv g h s with ⟨hdrop, -⟩ | ⟨n, m, -, -, hwrite⟩
  · exact ⟨_, hdrop⟩
  · exact ⟨_, hwrite⟩

end Completes

theorem AnswersFromRegisters.completes {i : Instr} (hi : AnswersFromRegisters i) (s : State) :
    Completes (exec i s) := by
  obtain ⟨answer, hexec⟩ := hi s
  exact ⟨_, hexec s rfl rfl⟩

/-- Settles O38: operation by operation; a frame and the two reads always complete. -/
theorem onlyUnspecifiedOperationsStop : Obligations.OnlyUnspecifiedOperationsStop := by
  intro s i
  cases i with
  | frame id a cv g h => exact iff_true_intro (completes_frame s id a cv g h)
  | pidCfg idx sub maxOut intLim p i d => exact completes_pidCfg s idx sub maxOut intLim p i d
  | pidGains idx p i d => exact completes_pidGains s idx p i d
  | pidLim idx maxErr deadband => exact completes_pidLim s idx maxErr deadband
  | pidCalc idx sub meas sp => exact completes_pidCalc s idx sub meas sp
  | pidCalcFb idx sub meas sp fb => exact completes_pidCalcFb s idx sub meas sp fb
  | pidRd idx sub => exact iff_true_intro ((pidRd_answersFromRegisters idx sub).completes s)
  | msRd idx => exact iff_true_intro ((msRd_answersFromRegisters idx).completes s)

end Sys2Proof.Machine

/-!
PROOF. The values of a computation (`41_pid.md` R124 to R127, R136, R137, R144; `42_math_primitives.md` R171, R173,
R175): where a NaN cannot arise, what a clamp bounds, and what is left of finite values when they meet a zero.
-/

namespace Sys2Proof.Machine

/-! ### The rewrapped error (R124 to R127) -/

/-- Settles O30: `REWRAP` with the constants written as their patterns. -/
theorem errorIsFormedAndRewrappedOnce : Obligations.ErrorIsFormedAndRewrappedOnce :=
  fun _ _ _ => ⟨rfl, rfl, rfl⟩

/-- A sum is a NaN only where an addend is one or both are infinities (R144). -/
theorem isNaN_fadd_of_isFinite_right {nan a b : F32} (ha : isNaN a = false) (hb : isFinite b = true) :
    isNaN (fadd nan a b) = false := by
  rcases isNaN_or_isInf_or_isFinite a with hnan | hinf | hfin
  · rw [ha] at hnan
    cases hnan
  · have hsum : fadd nan a b = a := by simp [fadd, ha, hinf, isNaN_of_isFinite hb, isInf_of_isFinite hb]
    rw [hsum, ha]
  · rw [fadd_of_isFinite hfin hb]
    split
    · exact isNaN_of_isFinite (isFinite_withSign (by decide))
    · exact isNaN_roundUnits _ _ _

theorem isNaN_fsub_of_isFinite_right {nan a b : F32} (ha : isNaN a = false) (hb : isFinite b = true) :
    isNaN (fsub nan a b) = false :=
  isNaN_fadd_of_isFinite_right ha (by rwa [isFinite_fneg])

/-- An error that overflowed stays the infinity it is: the period is finite. -/
theorem isNaN_rewrapBy {nan error negLimit limit period : F32} (he : isNaN error = false)
    (hperiod : isFinite period = true) : isNaN (rewrapBy nan error negLimit limit period) = false := by
  rcases rewrapBy_cases nan error negLimit limit period with hadd | hsub | hkept
  · rw [hadd]
    exact isNaN_fadd_of_isFinite_right he hperiod
  · rw [hsub]
    exact isNaN_fsub_of_isFinite_right he hperiod
  · rw [hkept, he]

/-- Settles O31: the first difference is of finite values, and the periods are finite. -/
theorem formedErrorIsNoNaN : Obligations.FormedErrorIsNoNaN := by
  intro nan dom m sp hm hsp
  have hdiff : isNaN (fsub (nan 0) sp m) = false := isNaN_fsub_of_isFinite_right (isNaN_of_isFinite hsp) hm
  cases dom with
  | none => exact hdiff
  | rotary12bit => exact isNaN_rewrapBy hdiff (by decide)
  | degrees => exact isNaN_rewrapBy hdiff (by decide)

/-- Settles O32: the value offered is used only where it is a NaN pattern. -/
theorem freeNanIsANaN : Obligations.FreeNanIsANaN := by
  intro k site
  unfold nanAt
  split
  next hfree => exact hfree
  next => decide

/-! ### Values within a limit (R136, R175) -/

theorem natAbs_orderKey (a : F32) : (orderKey a).natAbs = (fabs a).toNat := by
  unfold orderKey
  split <;> simp

/-- A limit that is not negative has its magnitude bits as its place in the order, -0.0 as well. -/
theorem orderKey_of_not_isNegative {limit : F32} (hfin : isFinite limit = true) (hneg : isNegative limit = false) :
    orderKey limit = (fabs limit).toNat := by
  have hzero : isNaN fZero = false ∧ orderKey fZero = 0 := by decide
  obtain ⟨hnan, hkey⟩ := hzero
  have hle : 0 ≤ orderKey limit := by
    simpa [isNegative, flt, isNaN_of_isFinite hfin, hnan, hkey] using hneg
  rw [← natAbs_orderKey, Int.natAbs_of_nonneg hle]

theorem fabs_fneg (a : F32) : fabs (fneg a) = fabs a := by
  apply BitVec.eq_of_toNat_eq
  rw [fabs_toNat, fabs_toNat, expOf_fneg, fracOf_fneg]

theorem orderKey_fneg (a : F32) : orderKey (fneg a) = -orderKey a := by
  unfold orderKey
  rw [signOf_fneg, fabs_fneg]
  cases signOf a <;> simp

theorem unitsMag_fneg (a : F32) : unitsMag (fneg a) = unitsMag a :=
  unitsMag_eq_of_fabs_eq (by rw [fabs_fneg])

/-- Magnitude bits that are not above those of a finite pattern are those of a finite pattern. -/
theorem isFinite_of_fabs_le {a b : F32} (hb : isFinite b = true) (h : (fabs a).toNat ≤ (fabs b).toNat) :
    isFinite a = true := by
  simp only [isFinite, bne_iff_ne, ne_eq] at hb ⊢
  rw [fabs_toNat, fabs_toNat] at h
  have hexp := expOf_lt b
  have hfrac := fracOf_lt b
  omega

theorem unitsMag_le_of_fabs_le {a b : F32} (h : (fabs a).toNat ≤ (fabs b).toNat) : unitsMag a ≤ unitsMag b := by
  rcases Nat.lt_or_eq_of_le h with hlt | heq
  · exact (unitsMag_lt_of_fabs_lt hlt).le
  · exact (unitsMag_eq_of_fabs_eq heq).le

/-- A value that passes both tests of a clamp has no more magnitude than the limit. -/
theorem fabs_le_of_within {x limit : F32} (hx : isNaN x = false) (hfin : isFinite limit = true)
    (hneg : isNegative limit = false) (hgt : fgt x limit = false) (hlt : flt x (fneg limit) = false) :
    (fabs x).toNat ≤ (fabs limit).toNat := by
  have hnan : isNaN limit = false := isNaN_of_isFinite hfin
  have hnan' : isNaN (fneg limit) = false := isNaN_of_isFinite (by rwa [isFinite_fneg])
  have hle : orderKey x ≤ orderKey limit := by simpa [fgt, hx, hnan] using hgt
  have hge : -orderKey limit ≤ orderKey x := by simpa [flt, hx, hnan', orderKey_fneg] using hlt
  rw [orderKey_of_not_isNegative hfin hneg] at hle hge
  have habs := natAbs_orderKey x
  omega

/-- A clamp bounds every value but a NaN, which passes both tests unchanged (R144). -/
theorem boundedBy_clamp (x : F32) {limit : F32} (hfin : isFinite limit = true) (hneg : isNegative limit = false) :
    BoundedBy (clamp x limit) limit := by
  rcases clamp_cases x limit with ⟨hc, -⟩ | ⟨hc, -, -⟩ | ⟨hc, hgt, hlt⟩ <;> rw [hc]
  · exact .inr ⟨hfin, le_rfl⟩
  · exact .inr ⟨by rwa [isFinite_fneg], (unitsMag_fneg limit).le⟩
  · cases hx : isNaN x with
    | true => exact .inl hx
    | false =>
      have hle := fabs_le_of_within hx hfin hneg hgt hlt
      exact .inr ⟨isFinite_of_fabs_le hfin hle, unitsMag_le_of_fabs_le hle⟩

theorem boundedBy_fZero (limit : F32) : BoundedBy fZero limit := by
  have hzero : isFinite fZero = true ∧ unitsMag fZero = 0 := by decide
  obtain ⟨hfin, hmag⟩ := hzero
  exact .inr ⟨hfin, by rw [hmag]; exact Nat.zero_le _⟩

/-! ### Zeros (R137, R171) -/

theorem isFinite_of_isZero {a : F32} (h : isZero a = true) : isFinite a = true := by
  simp only [isZero, Bool.and_eq_true, beq_iff_eq] at h
  simp [isFinite, h.1]

theorem unitsMag_of_isZero {a : F32} (h : isZero a = true) : unitsMag a = 0 := by
  simp only [isZero, Bool.and_eq_true, beq_iff_eq] at h
  simp [unitsMag, h.1, h.2]

theorem natAbs_units (a : F32) : (units a).natAbs = unitsMag a := by
  unfold units
  split <;> simp

theorem units_of_isZero {a : F32} (h : isZero a = true) : units a = 0 := by
  rw [← Int.natAbs_eq_zero, natAbs_units, unitsMag_of_isZero h]

theorem isZero_withSign_zero (neg : Bool) : isZero (withSign neg 0) = true := by
  cases neg <;> decide

theorem roundUnits_zero (neg : Bool) (den : Nat) : roundUnits neg 0 den = withSign neg 0 := by
  simp [roundUnits, roundNatEven]

/-- A zero times a finite value is a zero, of either sign. -/
theorem isZero_fmul_of_isZero_left {nan a b : F32} (ha : isZero a = true) (hb : isFinite b = true) :
    isZero (fmul nan a b) = true := by
  rw [fmul_of_isFinite (isFinite_of_isZero ha) hb, unitsMag_of_isZero ha, Nat.zero_mul, roundUnits_zero]
  exact isZero_withSign_zero _

/-- Zeros add to +0.0 unless both are negative. -/
theorem fadd_of_isZero {nan a b : F32} (ha : isZero a = true) (hb : isZero b = true)
    (hsign : (signOf a && signOf b) = false) : fadd nan a b = fZero := by
  rw [fadd_of_isFinite (isFinite_of_isZero ha) (isFinite_of_isZero hb), units_of_isZero ha, units_of_isZero hb, hsign]
  rfl

/-- The magnitude of a finite pattern is at most the largest one (R170). -/
theorem unitsMag_le_of_isFinite {a : F32} (h : isFinite a = true) : unitsMag a ≤ (2 ^ 24 - 1) * 2 ^ 253 := by
  simp only [isFinite, bne_iff_ne, ne_eq] at h
  have hexp := expOf_lt a
  have hfrac := fracOf_lt a
  unfold unitsMag
  split
  · exact (show fracOf a ≤ 2 ^ 24 - 1 by omega).trans (Nat.le_mul_of_pos_right _ (Nat.two_pow_pos _))
  · exact Nat.mul_le_mul (by omega) (Nat.pow_le_pow_right (by decide) (by omega))

theorem roundNatEven_le {n d k : Nat} (hd : 0 < d) (h : n ≤ k * d) : roundNatEven n d ≤ k := by
  obtain ⟨-, hround, -, -⟩ := roundNatEven_spec n hd
  by_contra hlt
  have hmul : (k + 1) * d ≤ roundNatEven n d * d := Nat.mul_le_mul_right d (by omega)
  rw [Nat.add_mul, Nat.one_mul] at hmul
  omega

/-- A whole number of units that is no more than the largest finite magnitude rounds to a finite pattern. -/
theorem isFinite_roundUnits {n : Nat} (neg : Bool) (h : n ≤ (2 ^ 24 - 1) * 2 ^ 253) :
    isFinite (roundUnits neg n 1) = true := by
  have hlog : Nat.log2 n < 24 + 253 := by
    rcases Nat.eq_zero_or_pos n with rfl | hpos
    · decide
    · refine (Nat.log2_lt hpos.ne').2 ?_
      calc n ≤ (2 ^ 24 - 1) * 2 ^ 253 := h
        _ < 2 ^ 24 * 2 ^ 253 := Nat.mul_lt_mul_of_pos_right (by decide) (Nat.two_pow_pos _)
        _ = 2 ^ (24 + 253) := (Nat.pow_add 2 24 253).symm
  have hbits : (Nat.log2 n - 23) * 2 ^ 23 + roundNatEven n (2 ^ (Nat.log2 n - 23)) < 0x7F800000 := by
    rcases Nat.lt_or_ge (Nat.log2 n) 276 with hlow | htop
    · have hn : n ≤ 2 ^ 24 * 2 ^ (Nat.log2 n - 23) := by
        rw [← Nat.pow_add]
        exact Nat.lt_log2_self.le.trans (Nat.pow_le_pow_right (by decide) (by omega))
      have hround := roundNatEven_le (Nat.two_pow_pos _) hn
      omega
    · have he : Nat.log2 n - 23 = 253 := by omega
      have hround := roundNatEven_le (Nat.two_pow_pos 253) h
      rw [he]
      omega
  rcases roundUnits_cases neg n 1 with ⟨hlt, heq⟩ | ⟨hge, -⟩
  · rw [heq]
    exact isFinite_withSign hlt
  · rw [Nat.div_one, Nat.one_mul] at hge
    omega

/-- Subtracting a zero from a finite value does not overflow. -/
theorem isFinite_fsub_of_isZero_right {nan a b : F32} (ha : isFinite a = true) (hb : isZero b = true) :
    isFinite (fsub nan a b) = true := by
  have hb' : isZero (fneg b) = true := by simpa [isZero] using hb
  rw [fsub, fadd_of_isFinite ha (isFinite_of_isZero hb'), units_of_isZero hb', add_zero, natAbs_units]
  split
  · exact isFinite_withSign (by decide)
  · exact isFinite_roundUnits _ (unitsMag_le_of_isFinite ha)

end Sys2Proof.Machine

/-!
PROOF. The operations of the PID Engine (`41_pid.md` R120 to R123, R128 to R137, R140, R142): what each writes and
answers on an axis that exists, and the limits of what a computation leaves.
-/

namespace Sys2Proof.Machine

/-! ### Configuration and reading (R120, R121, R122, R142) -/

/-- The two answers of a configuration operation on an axis that exists (R177, U3). -/
theorem configure_of_axis {s : State} {idx : Byte} {c : PidController} (hc : s.pid[idx.toNat]? = some c) (mn : String)
    (ops : List F32) (w : PidController → PidController) :
    (allFinite c ops = true →
      configure mn idx ops w s = .next ((s.setAxis idx.toNat (w c)).respond zeroResponse)) ∧
    (allFinite c ops = false → configure mn idx ops w s = .refused (.nonFinite mn)) := by
  have hexec : configure mn idx ops w s = onFinite mn c ops _ := onAxis_some hc
  exact ⟨fun hfin => hexec.trans (onFinite_of_true hfin _), fun hfin => hexec.trans (onFinite_of_false hfin _)⟩

/-- Settles O23: `PID.CFG` with a mode it knows is the write of its six registers. -/
theorem pidCfgWritesSixRegisters : Obligations.PidCfgWritesSixRegisters := by
  intro s idx sub md c mo il gp gi gd hc hsub
  have hmode : modeOfSub sub = some md := by
    rcases hsub with ⟨rfl, rfl⟩ | ⟨rfl, rfl⟩ <;> rfl
  rw [exec_pidCfg_of_mode hmode]
  exact configure_of_axis hc _ _ _

/-- Settles O24: `PID.GAINS` is the write of its three registers. -/
theorem pidGainsWritesThreeRegisters : Obligations.PidGainsWritesThreeRegisters :=
  fun _ _ _ _ _ _ hc => configure_of_axis hc _ _ _

/-- Settles O25: `PID.LIM` is the write of its two registers. -/
theorem pidLimWritesTwoRegisters : Obligations.PidLimWritesTwoRegisters :=
  fun _ _ _ _ _ hc => configure_of_axis hc _ _ _

theorem exec_pidRd_of_reg {s : State} {idx sub : Byte} {c : PidController} {reg : PidReg}
    (hc : s.pid[idx.toNat]? = some c) (hreg : regOfSub sub = some reg) :
    exec (.pidRd idx sub) s = .next (s.respond (scalarResponse (c.read reg))) := by
  simp only [exec, execPidRd, onAxis_some hc, hreg, onSub_some]

/-- R72: the words of an axis in the order of their select values. -/
theorem map_read_pidRegTable (c : PidController) :
    pidRegTable.map c.read =
      [c.p, c.i, c.d, c.maxOut, c.intLim, c.maxErr, c.deadband, (if c.mode = .position then 0#32 else 1#32),
        c.setHist.cur, c.setHist.prev, c.setHist.prev2, c.getHist.cur, c.getHist.prev, c.getHist.prev2,
        c.errHist.cur, c.errHist.prev, c.errHist.prev2, c.iOut, c.posOut, c.incOut] := by
  have hmode : modeWord c.mode = if c.mode = .position then 0#32 else 1#32 := by
    cases c.mode <;> rfl
  rw [← hmode]
  rfl

/-- Settles O26: a word of the list is the read of the register at its place in the table; the table ends at 19. -/
theorem pidRdAnswersTheRegister : Obligations.PidRdAnswersTheRegister := by
  refine fun s idx sub c hc => ⟨fun w hw => ?_, fun hsub => ?_⟩
  · rw [← map_read_pidRegTable, List.getElem?_map, Option.map_eq_some_iff] at hw
    obtain ⟨reg, hreg, rfl⟩ := hw
    exact exec_pidRd_of_reg hc hreg
  · exact onAxis_onSub_none (regOfSub_of_reserved hsub) idx s _

/-! ### The computations (R123, R128 to R136, R140) -/

section Compute

variable {s : State} {idx sub : Byte} {dom : ErrorDomain} {c : PidController} {m sp fb : F32}

theorem exec_pidCalc_of_inDomain (hc : s.pid[idx.toNat]? = some c) (hdom : domainOfSub sub = some dom)
    (hin : inDomain c [m, sp] = true) :
    exec (.pidCalc idx sub m sp) s =
      .next (s.commit idx.toNat (computeWith (nanAt s.opCount) c dom m sp (modeLaw (nanAt s.opCount)))) := by
  simp only [exec, execPidCalc, onAxis_some hc, hdom, onSub_some, domainStop_eq_none.2 hin]

theorem exec_pidCalcFb_of_inDomain (hc : s.pid[idx.toNat]? = some c) (hdom : domainOfSub sub = some dom)
    (hmode : c.mode = .position) (hin : inDomain c [m, sp, fb] = true) :
    exec (.pidCalcFb idx sub m sp fb) s =
      .next (s.commit idx.toNat (computeWith (nanAt s.opCount) c dom m sp
        fun c' error => feedbackLaw (nanAt s.opCount) c' error fb)) := by
  simp only [exec, execPidCalcFb, onAxis_some hc, hdom, onSub_some, hmode, domainStop_eq_none.2 hin]

variable {nan : Nat → F32} {law : PidController → F32 → PidController × F32}

theorem computeWith_of_voids (hv : voids c (formError nan dom m sp) = true) :
    computeWith nan c dom m sp law = none :=
  if_pos hv

theorem computeWith_of_not_voids (hv : voids c (formError nan dom m sp) = false) :
    computeWith nan c dom m sp law =
      some ((law (c.recordCurrent sp m (formError nan dom m sp)) (formError nan dom m sp)).1.shiftHistory,
        (law (c.recordCurrent sp m (formError nan dom m sp)) (formError nan dom m sp)).2) :=
  if_neg (by rw [hv]; exact Bool.false_ne_true)

theorem modeLaw_of_position (hmode : c.mode = .position) : modeLaw nan c = positionLaw nan c := by
  funext error
  simp only [modeLaw, hmode]

theorem modeLaw_of_incremental (hmode : c.mode = .incremental) : modeLaw nan c = incrementalLaw nan c := by
  funext error
  simp only [modeLaw, hmode]

end Compute

/-- Settles O33: a voided computation commits nothing. -/
theorem voidedComputeChangesNoRegister : Obligations.VoidedComputeChangesNoRegister := by
  intro s idx sub dom c m sp fb hc hdom e voided hvoid
  have hv : voids c e = true := by
    simpa only [voids, maxErrVoids, deadbandVoids, Bool.or_eq_true, Bool.and_eq_true] using hvoid
  refine ⟨fun hin => ?_, fun hmode hin => ?_⟩
  · rw [exec_pidCalc_of_inDomain hc hdom hin, computeWith_of_voids hv]
    rfl
  · rw [exec_pidCalcFb_of_inDomain hc hdom hmode hin, computeWith_of_voids hv]
    rfl

/-- Settles O34: the law of the position mode between the record and the shift. -/
theorem positionComputeFollowsItsLaw : Obligations.PositionComputeFollowsItsLaw := by
  intro s idx sub dom c m sp hc hdom hmode hin nan e hv pOut iOut dOut out
  have hmode' : (c.recordCurrent sp m e).mode = .position := hmode
  rw [exec_pidCalc_of_inDomain hc hdom hin, computeWith_of_not_voids hv, modeLaw_of_position hmode']
  rfl

/-- Settles O35: the law of the incremental mode between the record and the shift. -/
theorem incrementalComputeFollowsItsLaw : Obligations.IncrementalComputeFollowsItsLaw := by
  intro s idx sub dom c m sp hc hdom hmode hin nan e hv pOut iOut dOut delta out
  have hmode' : (c.recordCurrent sp m e).mode = .incremental := hmode
  rw [exec_pidCalc_of_inDomain hc hdom hin, computeWith_of_not_voids hv, modeLaw_of_incremental hmode']
  rfl

/-- Settles O36: the law of the feedback variant between the record and the shift. -/
theorem feedbackComputeFollowsItsLaw : Obligations.FeedbackComputeFollowsItsLaw := by
  intro s idx sub dom c m sp fb hc hdom hmode hin nan e hv pOut iOut dOut out
  rw [exec_pidCalcFb_of_inDomain hc hdom hmode hin, computeWith_of_not_voids hv]
  rfl

/-! ### The limits of the results (R136, R144) -/

/-- A clamp by a limit of an axis on the specified domain bounds what it answers (R177). -/
theorem boundedBy_clamp_of_mem_limits {c : PidController} {ops : List F32} (hin : inDomain c ops = true) {limit : F32}
    (hmem : limit ∈ c.limits) (x : F32) : BoundedBy (clamp x limit) limit := by
  simp only [inDomain, allFinite, limitsOk, Bool.and_eq_true, List.all_eq_true] at hin
  obtain ⟨⟨hregs, -⟩, hlimits⟩ := hin
  have hsub : c.limits ⊆ c.floats := by simp [PidController.limits, PidController.floats]
  exact boundedBy_clamp x (hregs limit (hsub hmem)) (by simpa using hlimits limit hmem)

/-- What a law that accumulates leaves: `IOUT` within `INTLIM`, and the output in `POSOUT`. -/
def PidController.AccumulatesWithin (c c' : PidController) (out : F32) : Prop :=
  BoundedBy c'.iOut c.intLim ∧ c'.posOut = out

/-- What the law of the mode leaves (R132, R133). -/
def PidController.ModeResult (c c' : PidController) (out : F32) : Prop :=
  (c.mode = .position → c.AccumulatesWithin c' out) ∧ (c.mode = .incremental → c'.incOut = out)

theorem PidController.modeResult_of_position {c c' : PidController} {out : F32} (hmode : c.mode = .position)
    (h : c.AccumulatesWithin c' out) : c.ModeResult c' out :=
  ⟨fun _ => h, fun hinc => absurd (hmode.symm.trans hinc) nofun⟩

theorem PidController.modeResult_of_incremental {c c' : PidController} {out : F32} (hmode : c.mode = .incremental)
    (h : c'.incOut = out) : c.ModeResult c' out :=
  ⟨fun hpos => absurd (hmode.symm.trans hpos) nofun, fun _ => h⟩

section Within

variable {c : PidController} {ops : List F32} (hin : inDomain c ops = true) (nan : Nat → F32) (m sp e : F32)

include hin

theorem modeLaw_within :
    BoundedBy (modeLaw nan (c.recordCurrent sp m e) e).2 c.maxOut ∧
      c.ModeResult (modeLaw nan (c.recordCurrent sp m e) e).1.shiftHistory
        (modeLaw nan (c.recordCurrent sp m e) e).2 := by
  have hmax := boundedBy_clamp_of_mem_limits hin (limit := c.maxOut) (by simp [PidController.limits])
  have hint := boundedBy_clamp_of_mem_limits hin (limit := c.intLim) (by simp [PidController.limits])
  cases hmode : c.mode with
  | position =>
    rw [modeLaw_of_position (c := c.recordCurrent sp m e) hmode]
    exact ⟨hmax _, PidController.modeResult_of_position hmode ⟨hint _, rfl⟩⟩
  | incremental =>
    rw [modeLaw_of_incremental (c := c.recordCurrent sp m e) hmode]
    exact ⟨hmax _, PidController.modeResult_of_incremental hmode rfl⟩

/-- `IOUT` is clamped, or forced to +0.0 (R140). -/
theorem feedbackLaw_within (fb : F32) :
    BoundedBy (feedbackLaw nan (c.recordCurrent sp m e) e fb).2 c.maxOut ∧
      c.AccumulatesWithin (feedbackLaw nan (c.recordCurrent sp m e) e fb).1.shiftHistory
        (feedbackLaw nan (c.recordCurrent sp m e) e fb).2 := by
  have hmax := boundedBy_clamp_of_mem_limits hin (limit := c.maxOut) (by simp [PidController.limits])
  have hint := boundedBy_clamp_of_mem_limits hin (limit := c.intLim) (by simp [PidController.limits])
  refine ⟨hmax _, ?_, rfl⟩
  simp only [feedbackLaw, PidController.shiftHistory_iOut]
  split
  · exact boundedBy_fZero _
  · exact hint _

end Within

/-- A committed compute answers once, within `MAXOUT`, and writes its axis only when it is not voided. -/
theorem commit_computeWith_within {c : PidController} {law : PidController → F32 → PidController × F32} {m sp : F32}
    {result : PidController → F32 → Prop} (s : State) (n : Nat) (nan : Nat → F32) (dom : ErrorDomain)
    (hlaw : ∀ e, BoundedBy (law (c.recordCurrent sp m e) e).2 c.maxOut ∧
      result (law (c.recordCurrent sp m e) e).1.shiftHistory (law (c.recordCurrent sp m e) e).2) :
    ∃ out, (s.commit n (computeWith nan c dom m sp law)).responses = s.responses ++ [scalarResponse out] ∧
      BoundedBy out c.maxOut ∧
      ((s.commit n (computeWith nan c dom m sp law)).pid = s.pid ∨
        ∃ c', (s.commit n (computeWith nan c dom m sp law)).pid = s.pid.set n c' ∧ result c' out) := by
  cases hv : voids c (formError nan dom m sp) with
  | true =>
    rw [computeWith_of_voids hv]
    exact ⟨fZero, rfl, boundedBy_fZero _, .inl rfl⟩
  | false =>
    rw [computeWith_of_not_voids hv]
    obtain ⟨hbound, hresult⟩ := hlaw (formError nan dom m sp)
    exact ⟨_, rfl, hbound, .inr ⟨_, rfl, hresult⟩⟩

/-- Settles O39: the output of each law is a clamp by `MAXOUT`, the accumulation one by `INTLIM`. -/
theorem computeResultsStayWithinLimits : Obligations.ComputeResultsStayWithinLimits := by
  intro s idx sub c m sp fb hc hsub
  obtain ⟨dom, hdom⟩ := (exists_domainOfSub_iff sub).2 hsub
  refine ⟨fun hin => ?_, fun hmode hin => ?_⟩
  · obtain ⟨out, hanswer⟩ := commit_computeWith_within (result := c.ModeResult) s idx.toNat
      (nanAt s.opCount) dom (modeLaw_within hin (nanAt s.opCount) m sp)
    exact ⟨_, out, exec_pidCalc_of_inDomain hc hdom hin, hanswer⟩
  · obtain ⟨out, hanswer⟩ := commit_computeWith_within (result := c.AccumulatesWithin) s
      idx.toNat (nanAt s.opCount) dom
      (law := fun c' error => feedbackLaw (nanAt s.opCount) c' error fb)
      fun e => feedbackLaw_within hin (nanAt s.opCount) m sp e fb
    exact ⟨_, out, exec_pidCalcFb_of_inDomain hc hdom hmode hin, hanswer⟩

/-! ### An axis at its reset values (R137) -/

theorem inDomain_reset {m sp : F32} (hm : isFinite m = true) (hsp : isFinite sp = true) :
    inDomain PidController.reset [m, sp] = true := by
  have hregs : PidController.reset.floats.all isFinite = true := by decide
  have hlimits : limitsOk PidController.reset = true := by decide
  simp [inDomain, allFinite, hregs, hlimits, hm, hsp]

/-- Both void limits are 0, which switches the checks off (R128, R129). -/
theorem voids_reset (e : F32) : voids PidController.reset e = false := by
  have hoff : fne0 PidController.reset.maxErr = false ∧ fne0 PidController.reset.deadband = false := by decide
  simp [voids, maxErrVoids, deadbandVoids, hoff]

/-- The accumulation starts from +0.0, which absorbs a zero of either sign. -/
theorem accumulated_reset (nan : Nat → F32) (m sp : F32) {e : F32} (he : isFinite e = true) :
    accumulated nan (PidController.reset.recordCurrent sp m e) e = fZero := by
  have hzero : isZero fZero = true ∧ signOf fZero = false ∧ clamp fZero fZero = fZero := by decide
  obtain ⟨hz, hsign, hclamp⟩ := hzero
  calc accumulated nan (PidController.reset.recordCurrent sp m e) e
      = clamp (fadd (nan 4) fZero (fmul (nan 3) fZero e)) fZero := rfl
    _ = clamp fZero fZero := by
      rw [fadd_of_isZero hz (isZero_fmul_of_isZero_left hz he) (by rw [hsign, Bool.false_and])]
    _ = fZero := hclamp

/-- Gains of zero make terms of zero, and the integral term +0.0 absorbs the sign of the other two. -/
theorem positionLaw_reset (nan : Nat → F32) (m sp : F32) {e : F32} (he : isFinite e = true) :
    positionLaw nan (PidController.reset.recordCurrent sp m e) e =
      ({ PidController.reset.recordCurrent sp m e with iOut := fZero, posOut := fZero }, fZero) := by
  have hzero : isZero fZero = true ∧ signOf fZero = false ∧ clamp fZero fZero = fZero := by decide
  obtain ⟨hz, hsign, hclamp⟩ := hzero
  have hpOut : isZero (fmul (nan 2) fZero e) = true := isZero_fmul_of_isZero_left hz he
  have hdOut : isZero (fmul (nan 6) fZero (fsub (nan 5) e fZero)) = true :=
    isZero_fmul_of_isZero_left hz (isFinite_fsub_of_isZero_right he hz)
  have hout : clamp (fadd (nan 8) (fadd (nan 7) (fmul (nan 2) fZero e) fZero)
      (fmul (nan 6) fZero (fsub (nan 5) e fZero))) fZero = fZero := by
    rw [fadd_of_isZero hpOut hz (by rw [hsign, Bool.and_false]), fadd_of_isZero hz hdOut (by rw [hsign, Bool.false_and]),
      hclamp]
  simp only [positionLaw, accumulated_reset nan m sp he]
  exact congrArg (fun out => ({ PidController.reset.recordCurrent sp m e with iOut := fZero, posOut := out }, out)) hout

/-- Settles O40: the axis is on the domain and not voided, and the position law answers +0.0. -/
theorem unconfiguredAxisAnswersZero : Obligations.UnconfiguredAxisAnswersZero := by
  intro s idx sub dom m sp hc hdom hm hsp e he
  have hmode : (PidController.reset.recordCurrent sp m e).mode = .position := rfl
  rw [exec_pidCalc_of_inDomain hc hdom (inDomain_reset hm hsp), computeWith_of_not_voids (voids_reset _),
    modeLaw_of_position hmode, positionLaw_reset _ m sp he]
  rfl

end Sys2Proof.Machine

/-!
PROOF. The integers of a decode (`42_math_primitives.md` R162, R163, R165): the frame counter, the turn count at the ends
of its range, the unwrapped angle modulo 2^32. And the refusals of a compute by name (R141, R177).
-/

namespace Sys2Proof.Machine

/-! ### The frame counter (R165) -/

/-- Settles O15: the two branches by the count before the frame, either of which counts one more. -/
theorem messageCountSelectsTheBranch : Obligations.MessageCountSelectsTheBranch := by
  intro m a cv g h
  refine ⟨?_, fun hle => decodeFrame_of_warmUp a cv g h hle, fun hgt => decodeFrame_of_steady a cv g h (by omega)⟩
  rw [decodeFrame_messageCount, BitVec.toNat_add]
  rfl

/-! ### The turn count (R162) -/

/-- One turn less wraps at the least value of a word. -/
theorem toInt_sub_one (rc : Word) :
    (rc - 1).toInt = if rc.toInt = -2147483648 then 2147483647 else rc.toInt - 1 := by
  have hlo : -2 ^ 31 ≤ rc.toInt := BitVec.le_toInt rc
  have hhi : rc.toInt < 2 ^ 31 := BitVec.toInt_lt
  have hone : (1 : Word).toInt = 1 := rfl
  rw [BitVec.toInt_sub, hone]
  split
  next hmin =>
    rw [hmin]
    rfl
  next hmin => exact Int.bmod_eq_of_le (by omega) (by omega)

/-- One turn more wraps at the greatest value of a word. -/
theorem toInt_add_one (rc : Word) :
    (rc + 1).toInt = if rc.toInt = 2147483647 then -2147483648 else rc.toInt + 1 := by
  have hlo : -2 ^ 31 ≤ rc.toInt := BitVec.le_toInt rc
  have hhi : rc.toInt < 2 ^ 31 := BitVec.toInt_lt
  have hone : (1 : Word).toInt = 1 := rfl
  rw [BitVec.toInt_add, hone]
  split
  next hmax =>
    rw [hmax]
    rfl
  next hmax => exact Int.bmod_eq_of_le (by omega) (by omega)

/-- Settles O16: past warm-up the detector sets the turn count, by its three cases. -/
theorem turnCountStepsByOneAndWraps : Obligations.TurnCountStepsByOneAndWraps := by
  intro m a cv g h hcount d after
  have hafter : after = (nextRoundCount m.roundCount d).toInt := by
    simp only [after, decodeFrame_of_steady a cv g h hcount, MotorState.countFrame_roundCount,
      MotorState.steady_roundCount]
    rfl
  rw [hafter]
  refine ⟨fun hgt => ?_, fun hlt => ?_, fun hlo hhi => ?_⟩
  · rw [nextRoundCount_of_gt hgt, toInt_sub_one]
  · rw [nextRoundCount_of_lt hlt, toInt_add_one]
  · rw [nextRoundCount_of_mid hlo hhi]

/-! ### The unwrapped angle (R98, R163) -/

theorem dvd_unwrappedAngle_sub (rc : Word) (a o : Half) :
    (2 ^ 32 : Int) ∣ (unwrappedAngle rc a o).toInt - (rc.toInt * 8192 + (a.toNat : Int) - (o.toNat : Int)) := by
  rw [unwrappedAngle_toInt]
  exact Int.dvd_bmod_sub_self

/-- A word is the exact value it is congruent to just where that is in the range of a word. -/
theorem toInt_eq_iff_of_dvd_sub {u : Word} {x : Int} (h : (2 ^ 32 : Int) ∣ u.toInt - x) :
    u.toInt = x ↔ -2147483648 ≤ x ∧ x ≤ 2147483647 := by
  have hlo : -2 ^ 31 ≤ u.toInt := BitVec.le_toInt u
  have hhi : u.toInt < 2 ^ 31 := BitVec.toInt_lt
  omega

/-- The turns are the high nineteen bits: the product with 8192 is a shift. -/
theorem unwrappedAngle_eq_shift (rc : Word) (a o : Half) :
    unwrappedAngle rc a o = (rc <<< 13) + a.setWidth 32 - o.setWidth 32 := by
  have hsub : BitVec.ofInt 32 (-(o.toNat : Int)) = -o.setWidth 32 := by
    rw [BitVec.ofInt_neg, BitVec.ofInt_natCast, BitVec.ofNat_toNat]
  rw [unwrappedAngle, Int.sub_eq_add_neg, BitVec.ofInt_add, BitVec.ofInt_add, BitVec.ofInt_mul, BitVec.ofInt_toInt, hsub,
    BitVec.ofInt_natCast, BitVec.ofNat_toNat, BitVec.shiftLeft_eq_mul_twoPow, BitVec.sub_eq_add_neg]
  rfl

/-- Settles O18: the result is congruent to the exact value; the clauses on turns say where that is in range. -/
theorem unwrappedAngleIsExactInRange : Obligations.UnwrappedAngleIsExactInRange := by
  intro rc a o exact u
  have hdvd : (2 ^ 32 : Int) ∣ u.toInt - exact := dvd_unwrappedAngle_sub rc a o
  have hrange : u.toInt = exact ↔ -2147483648 ≤ exact ∧ exact ≤ 2147483647 := toInt_eq_iff_of_dvd_sub hdvd
  refine ⟨hdvd, hrange, unwrappedAngle_eq_shift rc a o, fun ha ho => ⟨fun hlo hhi => ?_, fun hturns => ?_, fun hout => ?_⟩⟩
    <;> simp only [ne_eq, hrange, exact] <;> omega

/-! ### The computes outside the specified domain (R141, R177) -/

theorem domainStop_of_not_allFinite {mn : String} {c : PidController} {ops : List F32} (h : allFinite c ops = false) :
    domainStop mn c ops = some (.nonFinite mn) := by
  simp [domainStop, h]

theorem domainStop_of_not_limitsOk {mn : String} {c : PidController} {ops : List F32} (h : allFinite c ops = true)
    (hlim : limitsOk c = false) : domainStop mn c ops = some (.negativeLimit mn) := by
  simp [domainStop, h, hlim]

section Refused

variable {s : State} {idx sub : Byte} {dom : ErrorDomain} {c : PidController} {m sp fb : F32} {r : Refusal}

theorem exec_pidCalc_of_domainStop (hc : s.pid[idx.toNat]? = some c) (hdom : domainOfSub sub = some dom)
    (hstop : domainStop "PID.CALC" c [m, sp] = some r) : exec (.pidCalc idx sub m sp) s = .refused r := by
  simp only [exec, execPidCalc, onAxis_some hc, hdom, onSub_some, hstop]

theorem exec_pidCalcFb_of_incremental (hc : s.pid[idx.toNat]? = some c) (hdom : domainOfSub sub = some dom)
    (hmode : c.mode = .incremental) : exec (.pidCalcFb idx sub m sp fb) s = .refused .feedbackInIncrementalMode := by
  simp only [exec, execPidCalcFb, onAxis_some hc, hdom, onSub_some, hmode]

theorem exec_pidCalcFb_of_domainStop (hc : s.pid[idx.toNat]? = some c) (hdom : domainOfSub sub = some dom)
    (hmode : c.mode = .position) (hstop : domainStop "PID.CALCFB" c [m, sp, fb] = some r) :
    exec (.pidCalcFb idx sub m sp fb) s = .refused r := by
  simp only [exec, execPidCalcFb, onAxis_some hc, hdom, onSub_some, hmode, hstop]

end Refused

/-- Settles O37: the mode first, then the finite values, then the limits. -/
theorem unspecifiedComputeIsRefused : Obligations.UnspecifiedComputeIsRefused := by
  intro s idx sub c m sp fb hc hsub
  obtain ⟨dom, hdom⟩ := (exists_domainOfSub_iff sub).2 hsub
  exact ⟨fun hfin => exec_pidCalc_of_domainStop hc hdom (domainStop_of_not_allFinite hfin),
    fun hfin hlim => exec_pidCalc_of_domainStop hc hdom (domainStop_of_not_limitsOk hfin hlim),
    fun hmode => exec_pidCalcFb_of_incremental hc hdom hmode,
    fun hmode hfin => exec_pidCalcFb_of_domainStop hc hdom hmode (domainStop_of_not_allFinite hfin),
    fun hmode hfin hlim => exec_pidCalcFb_of_domainStop hc hdom hmode (domainStop_of_not_limitsOk hfin hlim)⟩

end Sys2Proof.Machine

/-!
PROOF. The values of binary32 patterns (`42_math_primitives.md` R170, R173 to R175): the two sign operations, the
comparisons, and the clamp.
-/

namespace Sys2Proof.Machine

/-! ### `fabs` and `fneg` (R174) -/

theorem fabs_getLsbD {k : Nat} (hk : k < 31) (a : F32) : (fabs a).getLsbD k = a.getLsbD k := by
  rw [fabs, BitVec.getLsbD_and, magnitudeMask_getLsbD hk, Bool.and_true]

theorem fneg_getLsbD {k : Nat} (hk : k < 31) (a : F32) : (fneg a).getLsbD k = a.getLsbD k := by
  rw [fneg, BitVec.getLsbD_xor, signMask_getLsbD hk, Bool.xor_false]

theorem units_fabs (a : F32) : units (fabs a) = (unitsMag a : Int) := by
  rw [units, signOf_fabs, unitsMag, unitsMag, expOf_fabs, fracOf_fabs]
  rfl

theorem units_fneg (a : F32) : units (fneg a) = -units a := by
  rw [units, units, signOf_fneg, unitsMag_fneg]
  cases signOf a <;> simp

/-- Settles O51: bit by bit under the two masks, and on the value through the fields. -/
theorem signOperationsAreExact : Obligations.SignOperationsAreExact := fun a =>
  ⟨fun _ hk => ⟨fabs_getLsbD hk a, fneg_getLsbD hk a⟩, signOf_fabs a, signOf_fneg a, units_fabs a, units_fneg a⟩

/-! ### The order of the values (R173) -/

theorem unitsMag_lt_iff (a b : F32) : unitsMag a < unitsMag b ↔ (fabs a).toNat < (fabs b).toNat :=
  ⟨fun h => Nat.lt_of_not_le fun hle => Nat.not_le_of_lt h (unitsMag_le_of_fabs_le hle), unitsMag_lt_of_fabs_lt⟩

/-- Only the zeros have no magnitude. -/
theorem unitsMag_pos_iff (a : F32) : 0 < unitsMag a ↔ 0 < (fabs a).toNat := unitsMag_lt_iff 0#32 a

/-- The order of the patterns is the order of the values, and the two zeros are one place. -/
theorem orderKey_lt_iff (a b : F32) : orderKey a < orderKey b ↔ units a < units b := by
  have hlt := unitsMag_lt_iff a b
  have hgt := unitsMag_lt_iff b a
  have ha := unitsMag_pos_iff a
  have hb := unitsMag_pos_iff b
  unfold orderKey units
  cases signOf a <;> cases signOf b <;> simp only [if_true, if_false, Bool.false_eq_true] <;> omega

/-- R173 on finite values. -/
theorem flt_iff_of_isFinite {a b : F32} (ha : isFinite a = true) (hb : isFinite b = true) :
    flt a b = true ↔ units a < units b := by
  simp [flt, isNaN_of_isFinite ha, isNaN_of_isFinite hb, orderKey_lt_iff]

theorem fgt_eq_flt (a b : F32) : fgt a b = flt b a := by
  rw [fgt, flt, Bool.and_comm (!isNaN a)]

theorem flt_of_isNaN {a b : F32} (h : isNaN a = true ∨ isNaN b = true) : flt a b = false := by
  rcases h with h | h <;> simp [flt, h]

theorem isNaN_infinity (neg : Bool) : isNaN (infinity neg) = false := by
  cases neg <;> decide

/-- The two infinities, at the ends of the order. -/
theorem orderKey_infinity (neg : Bool) : orderKey (infinity neg) = if neg then -0x7F800000 else 0x7F800000 := by
  cases neg <;> decide

/-- Magnitude bits below those of an infinity are those of a finite pattern. -/
theorem orderKey_of_isFinite {a : F32} (h : isFinite a = true) : -0x7F800000 < orderKey a ∧ orderKey a < 0x7F800000 := by
  simp only [isFinite, bne_iff_ne, ne_eq] at h
  have hexp := expOf_lt a
  have hfrac := fracOf_lt a
  have habs := natAbs_orderKey a
  rw [fabs_toNat] at habs
  omega

/-- An infinity is beyond every finite value on its side. -/
theorem flt_infinity_of_isFinite {a : F32} (h : isFinite a = true) (neg : Bool) :
    flt a (infinity neg) = !neg ∧ flt (infinity neg) a = neg := by
  obtain ⟨hlo, hhi⟩ := orderKey_of_isFinite h
  simp only [flt, isNaN_of_isFinite h, isNaN_infinity, orderKey_infinity]
  cases neg <;> simp <;> omega

theorem flt_infinities (m n : Bool) : flt (infinity m) (infinity n) = (m && !n) := by
  simp only [flt, isNaN_infinity, orderKey_infinity]
  cases m <;> cases n <;> decide

/-- The zeros are two patterns. -/
theorem isZero_iff (a : F32) : isZero a = true ↔ a = 0x00000000#32 ∨ a = 0x80000000#32 := by
  constructor
  · intro h
    simp only [isZero, Bool.and_eq_true, beq_iff_eq] at h
    obtain ⟨hexp, hfrac⟩ := h
    have hbits := toNat_eq_fields a
    rw [hexp, hfrac] at hbits
    cases hsign : signOf a <;> rw [hsign] at hbits
    · exact .inl (BitVec.eq_of_toNat_eq hbits)
    · exact .inr (BitVec.eq_of_toNat_eq hbits)
  · rintro (rfl | rfl) <;> decide

theorem fne0_iff (a : F32) : fne0 a = true ↔ a ≠ 0x00000000#32 ∧ a ≠ 0x80000000#32 := by
  rw [fne0, Bool.not_eq_true', Bool.eq_false_iff, ne_eq, isZero_iff, not_or]

/-- Settles O50: by the place of each pattern in the order of values. -/
theorem comparisonsCompareValues : Obligations.ComparisonsCompareValues := by
  intro a b
  refine ⟨fgt_eq_flt, flt_of_isNaN, flt_iff_of_isFinite, fun ha => ?_, flt_infinities, fne0_iff a⟩
  obtain ⟨hbelow, hnotAbove⟩ := flt_infinity_of_isFinite ha false
  obtain ⟨hnotBelow, habove⟩ := flt_infinity_of_isFinite ha true
  exact ⟨hbelow, hnotAbove, habove, hnotBelow⟩

/-! ### The clamp (R175) -/

theorem clamp_of_fgt {x limit : F32} (h : fgt x limit = true) : clamp x limit = limit := if_pos h

theorem clamp_of_flt {x limit : F32} (h : fgt x limit = false) (h' : flt x (fneg limit) = true) :
    clamp x limit = fneg limit := by
  rw [clamp, h, h']
  rfl

/-- The value of a limit that is not negative, -0.0 as well. -/
theorem units_nonneg_of_not_isNegative {limit : F32} (hfin : isFinite limit = true) (hneg : isNegative limit = false) :
    0 ≤ units limit := by
  have hzero : isFinite fZero = true ∧ units fZero = 0 := by decide
  obtain ⟨hz, hunits⟩ := hzero
  have hnlt : ¬ units limit < 0 := by
    rw [← hunits, ← flt_iff_of_isFinite hfin hz, Bool.not_eq_true]
    exact hneg
  omega

section Clamp

variable {x limit : F32}

/-- A clamp answers the limit, its negation or the value, none of them a NaN, and it is bounded. -/
theorem isFinite_clamp (hfin : isFinite limit = true) (hneg : isNegative limit = false) (hx : isNaN x = false) :
    isFinite (clamp x limit) = true := by
  rcases boundedBy_clamp x hfin hneg with hnan | ⟨hfinite, -⟩
  · rcases clamp_cases x limit with ⟨hc, -⟩ | ⟨hc, -⟩ | ⟨hc, -⟩ <;> rw [hc] at hnan ⊢
    · exact hfin
    · rwa [isFinite_fneg]
    · rw [hx] at hnan
      cases hnan
  · exact hfinite

/-- The two tests of a clamp on finite values, and what it answers. -/
theorem clamp_of_isFinite (hfin : isFinite limit = true) (hx : isFinite x = true) :
    (clamp x limit = limit ∧ units limit < units x) ∨
    (clamp x limit = fneg limit ∧ units x ≤ units limit ∧ units x < -units limit) ∨
    (clamp x limit = x ∧ units x ≤ units limit ∧ -units limit ≤ units x) := by
  have habove := flt_iff_of_isFinite hfin hx
  have hbelow := flt_iff_of_isFinite hx ((isFinite_fneg limit).trans hfin)
  rw [units_fneg] at hbelow
  simpa only [fgt_eq_flt, ← Bool.not_eq_true, habove, hbelow, Int.not_lt] using clamp_cases x limit

/-- The clamp limits the value to the range, bounds included. -/
theorem units_clamp (hfin : isFinite limit = true) (hneg : isNegative limit = false) (hx : isFinite x = true) :
    units (clamp x limit) = max (-(units limit)) (min (units x) (units limit)) := by
  have hpos := units_nonneg_of_not_isNegative hfin hneg
  rcases clamp_of_isFinite hfin hx with ⟨hc, hgt⟩ | ⟨hc, -, hlt⟩ | ⟨hc, hle, hge⟩ <;> rw [hc]
  · omega
  · rw [units_fneg]
    omega
  · omega

theorem clamp_of_within (hfin : isFinite limit = true) (hx : isFinite x = true) (hlo : -(units limit) ≤ units x)
    (hhi : units x ≤ units limit) : clamp x limit = x := by
  rcases clamp_of_isFinite hfin hx with ⟨-, hgt⟩ | ⟨-, -, hlt⟩ | ⟨hc, -, -⟩
  · omega
  · omega
  · exact hc

theorem clamp_infinity_pos (hfin : isFinite limit = true) : clamp (infinity false) limit = limit :=
  clamp_of_fgt ((fgt_eq_flt _ _).trans (flt_infinity_of_isFinite hfin false).1)

theorem clamp_infinity_neg (hfin : isFinite limit = true) : clamp (infinity true) limit = fneg limit :=
  clamp_of_flt ((fgt_eq_flt _ _).trans (flt_infinity_of_isFinite hfin true).1)
    (flt_infinity_of_isFinite ((isFinite_fneg limit).trans hfin) true).2

end Clamp

/-- Settles O52: by the two tests on finite values, and by the ends of the order on infinities. -/
theorem clampIsTheNearestMember : Obligations.ClampIsTheNearestMember := by
  intro x limit hfin hneg hx
  refine ⟨isFinite_clamp hfin hneg hx, units_clamp hfin hneg, ?_, ?_, clamp_of_within hfin⟩
  · rintro rfl
    exact clamp_infinity_pos hfin
  · rintro rfl
    exact clamp_infinity_neg hfin

end Sys2Proof.Machine

/-!
PROOF. Rounding once (`42_math_primitives.md` R171): the exponent and the significand of a rounded magnitude, where it
overflows, that no finite pattern is nearer, and the four operations on finite patterns.
-/

namespace Sys2Proof.Machine

/-! ### The rounding of a fraction -/

/-- Up to an odd number, a fraction rounds to it or below just where it is below the tie after it. -/
theorem roundNatEven_le_iff_of_odd (n : Nat) {s q : Nat} (hs : 0 < s) (hq : q % 2 = 1) :
    roundNatEven n s ≤ q ↔ 2 * n < (2 * q + 1) * s := by
  obtain ⟨hbelow, habove, heven, -⟩ := roundNatEven_spec n hs
  have hexpand : (2 * q + 1) * s = 2 * (q * s) + s := by ring
  rw [hexpand]
  rcases Nat.lt_trichotomy (roundNatEven n s) q with hlt | heq | hgt
  · have hgap : (roundNatEven n s + 1) * s ≤ q * s := Nat.mul_le_mul_right s hlt
    rw [Nat.add_mul, Nat.one_mul] at hgap
    omega
  · rw [heq] at hbelow heven ⊢
    omega
  · have hgap : (q + 1) * s ≤ roundNatEven n s * s := Nat.mul_le_mul_right s hgt
    rw [Nat.add_mul, Nat.one_mul] at hgap
    omega

/-- No multiple of `s` is nearer to `n` than the rounded one, which is even where another is as near. -/
theorem roundNatEven_nearest (n : Nat) {s : Nat} (hs : 0 < s) (k : Int) :
    ((roundNatEven n s : Int) * s - n).natAbs ≤ (k * s - n).natAbs ∧
    ((k * s - n).natAbs = ((roundNatEven n s : Int) * s - n).natAbs → k ≠ roundNatEven n s →
      roundNatEven n s % 2 = 0) := by
  obtain ⟨hbelow, habove, heven, heven'⟩ := roundNatEven_spec n hs
  have hcast : ((roundNatEven n s * s : Nat) : Int) = (roundNatEven n s : Int) * s := Int.natCast_mul _ _
  rcases Int.lt_trichotomy k (roundNatEven n s) with hlt | heq | hgt
  · have hgap : (k + 1) * s ≤ (roundNatEven n s : Int) * s := Int.mul_le_mul_of_nonneg_right hlt (Int.natCast_nonneg s)
    rw [Int.add_mul, Int.one_mul] at hgap
    omega
  · rw [heq]
    omega
  · have hgap : ((roundNatEven n s : Int) + 1) * s ≤ k * s := Int.mul_le_mul_of_nonneg_right hgt (Int.natCast_nonneg s)
    rw [Int.add_mul, Int.one_mul] at hgap
    omega

/-! ### The exponent and the significand of a rounded magnitude -/

/-- The power of two in front of the significand: the `e` of `roundUnits`. -/
def roundExp (n d : Nat) : Nat := Nat.log2 (n / d) - 23

/-- The significand of at most 24 bits: the multiple of `2^e` units nearest to `n / d`. -/
def roundSig (n d : Nat) : Nat := roundNatEven n (d * 2 ^ roundExp n d)

theorem roundUnits_eq (neg : Bool) (n d : Nat) :
    roundUnits neg n d =
      if roundExp n d * 2 ^ 23 + roundSig n d < 0x7F800000 then withSign neg (roundExp n d * 2 ^ 23 + roundSig n d)
      else infinity neg := rfl

section Rounding

variable {n d : Nat} (hd : 0 < d)

include hd

/-- Above the subnormal range the magnitude fills 24 bits at its exponent. -/
theorem le_of_roundExp_pos (he : roundExp n d ≠ 0) : 2 ^ 23 * (d * 2 ^ roundExp n d) ≤ n := by
  have hlog : Nat.log2 (n / d) = roundExp n d + 23 := by unfold roundExp at he ⊢; omega
  have hq : n / d ≠ 0 := fun h0 => by rw [h0] at hlog; simp at hlog
  have hpow : 2 ^ (roundExp n d + 23) * d ≤ n := (Nat.le_div_iff_mul_le hd).1 (hlog ▸ Nat.log2_self_le hq)
  calc 2 ^ 23 * (d * 2 ^ roundExp n d) = 2 ^ (roundExp n d + 23) * d := by ring
    _ ≤ n := hpow

theorem lt_roundExp (n : Nat) : n < 2 ^ 24 * (d * 2 ^ roundExp n d) := by
  have hle : n / d < 2 ^ (roundExp n d + 24) :=
    Nat.lt_log2_self.trans_le (Nat.pow_le_pow_right (by decide) (by unfold roundExp; omega))
  calc n < 2 ^ (roundExp n d + 24) * d := (Nat.div_lt_iff_lt_mul hd).1 hle
    _ = 2 ^ 24 * (d * 2 ^ roundExp n d) := by ring

theorem roundStep_pos (n : Nat) : 0 < d * 2 ^ roundExp n d := Nat.mul_pos hd (Nat.two_pow_pos _)

theorem roundSig_le (n : Nat) : roundSig n d ≤ 2 ^ 24 :=
  roundNatEven_le (roundStep_pos hd n) (lt_roundExp hd n).le

theorem le_roundSig (he : roundExp n d ≠ 0) : 2 ^ 23 ≤ roundSig n d := by
  have hstep := roundStep_pos hd n
  have hfill := le_of_roundExp_pos hd he
  obtain ⟨hround, -, -, -⟩ := roundNatEven_spec n hstep
  by_contra hlt
  have hmul : (roundSig n d + 1) * (d * 2 ^ roundExp n d) ≤ 2 ^ 23 * (d * 2 ^ roundExp n d) :=
    Nat.mul_le_mul_right _ (by omega)
  rw [Nat.add_mul, Nat.one_mul] at hmul
  unfold roundSig at hmul
  omega

/-- The magnitude bits reach those of an infinity just where the magnitude reaches the overflow threshold; at the largest
exponent of a finite pattern that threshold is the tie with an odd significand. -/
theorem roundBits_lt_iff (n : Nat) :
    roundExp n d * 2 ^ 23 + roundSig n d < 0x7F800000 ↔ n < overflowUnits * d := by
  have hover : overflowUnits * d = (2 ^ 25 - 1) * (d * 2 ^ 252) := by rw [overflowUnits]; ring
  have hlt := lt_roundExp hd n
  have hsig := roundSig_le hd n
  rw [hover]
  rcases Nat.lt_trichotomy (roundExp n d) 253 with hlow | htop | hhigh
  · have hstep : d * 2 ^ roundExp n d ≤ d * 2 ^ 252 :=
      Nat.mul_le_mul_left d (Nat.pow_le_pow_right (by decide) (by omega))
    exact iff_of_true (by omega) (by omega)
  · have hstep : d * 2 ^ roundExp n d = 2 * (d * 2 ^ 252) := by rw [htop]; ring
    have htie : roundSig n d ≤ 2 ^ 24 - 1 ↔ 2 * n < (2 * (2 ^ 24 - 1) + 1) * (d * 2 ^ roundExp n d) :=
      roundNatEven_le_iff_of_odd n (roundStep_pos hd n) (by decide)
    rw [hstep] at htie
    rw [htop]
    omega
  · have hfill := le_of_roundExp_pos hd (n := n) (by omega)
    have hfull := le_roundSig hd (n := n) (by omega)
    have hstep : d * 2 ^ 254 ≤ d * 2 ^ roundExp n d :=
      Nat.mul_le_mul_left d (Nat.pow_le_pow_right (by decide) (by omega))
    have hquad : d * 2 ^ 254 = 4 * (d * 2 ^ 252) := by ring
    exact iff_of_false (by omega) (by omega)

end Rounding

/-! ### No finite pattern is nearer -/

/-- A magnitude is a multiple of `2^e`, or below the 24-bit multiples of `2^e`. -/
theorem two_pow_dvd_unitsMag_or_lt (e : Nat) (c : F32) : 2 ^ e ∣ unitsMag c ∨ unitsMag c < 2 ^ 23 * 2 ^ e := by
  have hfrac := fracOf_lt c
  unfold unitsMag
  split
  · exact .inr (hfrac.trans_le (Nat.le_mul_of_pos_right _ (Nat.two_pow_pos e)))
  · rcases Nat.lt_or_ge (expOf c - 1) e with hlt | hge
    · right
      calc (2 ^ 23 + fracOf c) * 2 ^ (expOf c - 1)
          < (2 ^ 23 * 2) * 2 ^ (expOf c - 1) := Nat.mul_lt_mul_of_pos_right (by omega) (Nat.two_pow_pos _)
        _ = 2 ^ 23 * 2 ^ (expOf c - 1 + 1) := by ring
        _ ≤ 2 ^ 23 * 2 ^ e := Nat.mul_le_mul_left _ (Nat.pow_le_pow_right (by decide) hlt)
    · exact .inl (Dvd.dvd.mul_left (Nat.pow_dvd_pow 2 hge) _)

/-- A number of units with a sign. -/
def signed (neg : Bool) (x : Int) : Int := if neg then -x else x

theorem natAbs_signed (neg : Bool) (x : Int) : (signed neg x).natAbs = x.natAbs := by
  cases neg <;> simp [signed]

theorem signed_signed (neg : Bool) (x : Int) : signed neg (signed neg x) = x := by
  cases neg <;> simp [signed]

theorem units_eq_signed (a : F32) : units a = signed (signOf a) (unitsMag a) := rfl

/-- The distance from a magnitude with a sign, measured on the side of that sign. -/
theorem distanceFrom_signed (neg : Bool) (n d : Nat) (c : F32) :
    distanceFrom (signed neg n) d c = (signed neg (units c) * d - n).natAbs := by
  cases neg with
  | false => rfl
  | true =>
    have hneg : units c * d - signed true n = -(signed true (units c) * d - n) := by
      simp only [signed, if_true]
      ring
    rw [distanceFrom, hneg, Int.natAbs_neg]

/-- The value of `e × 2^23 + m` magnitude bits is the nearest of all values of patterns, and `m` is even where another is
as near. Below the 24-bit multiples of the step there is no value nearer than the least of them. -/
theorem roundSig_nearest (n : Nat) {d : Nat} (hd : 0 < d) (neg : Bool) (c : F32) :
    ((roundSig n d : Int) * 2 ^ roundExp n d * d - n).natAbs ≤ (signed neg (units c) * d - n).natAbs ∧
    ((signed neg (units c) * d - n).natAbs = ((roundSig n d : Int) * 2 ^ roundExp n d * d - n).natAbs →
      signed neg (units c) ≠ roundSig n d * 2 ^ roundExp n d → roundSig n d % 2 = 0) := by
  have hstep : ((d * 2 ^ roundExp n d : Nat) : Int) = 2 ^ roundExp n d * d := by push_cast; ring
  have hmag : (signed neg (units c)).natAbs = unitsMag c := by rw [natAbs_signed, natAbs_units]
  have hnear := roundNatEven_nearest n (roundStep_pos hd n)
  have hspec : roundNatEven n (d * 2 ^ roundExp n d) = roundSig n d := rfl
  simp only [hspec, hstep, ← Int.mul_assoc] at hnear
  by_cases hdvd : (2 ^ roundExp n d : Int) ∣ signed neg (units c)
  · obtain ⟨k, hk⟩ := hdvd
    obtain ⟨hle, heven⟩ := hnear k
    rw [hk, Int.mul_comm _ k]
    exact ⟨hle, fun heq hne => heven heq fun hsame => hne (by rw [hsame])⟩
  · have hlt : unitsMag c < 2 ^ 23 * 2 ^ roundExp n d := by
      refine (two_pow_dvd_unitsMag_or_lt _ c).resolve_left fun h => hdvd ?_
      rw [← Int.natCast_dvd_natCast, ← hmag, Int.dvd_natAbs] at h
      exact_mod_cast h
    have hexp : roundExp n d ≠ 0 := fun h0 => hdvd (by rw [h0]; exact one_dvd _)
    have hfill : (2 ^ 23 * 2 ^ roundExp n d * d : Int) ≤ n := by
      have hnat := le_of_roundExp_pos hd hexp
      rw [Nat.mul_left_comm, Nat.mul_comm] at hnat
      exact_mod_cast hnat
    have hbelow : signed neg (units c) * d < 2 ^ 23 * 2 ^ roundExp n d * d := by
      refine Int.mul_lt_mul_of_pos_right ?_ (by exact_mod_cast hd)
      have hcast : (unitsMag c : Int) < 2 ^ 23 * 2 ^ roundExp n d := by exact_mod_cast hlt
      omega
    obtain ⟨hle, -⟩ := hnear (2 ^ 23)
    omega

/-! ### The rounding of the model is the one of R171 -/

theorem withSign_getLsbD_zero (neg : Bool) {mag : Nat} (h : mag < 2 ^ 31) (heven : mag % 2 = 0) :
    (withSign neg mag).getLsbD 0 = false := by
  have hbits := withSign_toNat (neg := neg) h
  have hmod : (withSign neg mag).toNat % 2 = 0 := by
    rw [hbits]
    cases neg <;> simp <;> omega
  simp [BitVec.getLsbD, Nat.testBit_zero, hmod]

/-- The magnitude `n / d` with a sign, rounded by `roundUnits`. -/
theorem roundedOnce_roundUnits (neg : Bool) (n : Nat) {d : Nat} (hd : 0 < d) :
    RoundedOnce (roundUnits neg n d) (signed neg n) d := by
  rw [RoundedOnce, natAbs_signed, Int.natAbs_natCast, Int.natAbs_natCast]
  split
  next hfits =>
    have hbits := (roundBits_lt_iff hd n).2 hfits
    have hunits : units (withSign neg (roundExp n d * 2 ^ 23 + roundSig n d)) =
        signed neg (roundSig n d * 2 ^ roundExp n d) := by
      rw [units_eq_signed, signOf_withSign (by omega),
        unitsMag_withSign (roundSig_le hd n) (or_iff_not_imp_left.2 (le_roundSig hd)) hbits]
      push_cast
      rfl
    rw [roundUnits_eq, if_pos hbits]
    refine ⟨isFinite_withSign hbits, fun c _ => ?_⟩
    obtain ⟨hle, heven⟩ := roundSig_nearest n hd neg c
    simp only [distanceFrom_signed, hunits, signed_signed]
    refine ⟨hle, fun heq hne => withSign_getLsbD_zero neg (by omega) ?_⟩
    have hsig := heven heq fun hsame => hne (by rw [← hsame, signed_signed])
    omega
  next hover =>
    rw [roundUnits_eq, if_neg (mt (roundBits_lt_iff hd n).1 hover)]
    have hpos : 0 < n := (Nat.mul_pos (by decide) hd).trans_le (Nat.not_lt.1 hover)
    have hprod : (0 : Int) < n * d := Int.mul_pos (by exact_mod_cast hpos) (by exact_mod_cast hd)
    congr 1
    cases neg with
    | false => simpa [signed] using hprod.le
    | true => simpa [signed] using hprod

/-- One sign on both terms of a quotient leaves its value. -/
theorem roundedOnce_signed (neg : Bool) {r : F32} {num den : Int} :
    RoundedOnce r (signed neg num) (signed neg den) ↔ RoundedOnce r num den := by
  cases neg with
  | false => rfl
  | true =>
    have hdist : ∀ c, distanceFrom (-num) (-den) c = distanceFrom num den c := fun c => by
      have hneg : units c * -den - -num = -(units c * den - num) := by ring
      rw [distanceFrom, hneg, Int.natAbs_neg, distanceFrom]
    simp only [signed, if_true, RoundedOnce, hdist, Int.natAbs_neg, Int.neg_mul_neg]

/-! ### The four operations -/

theorem signed_natAbs (x : Int) : signed (decide (x < 0)) x.natAbs = x := by
  by_cases hneg : x < 0
  · simp only [signed, hneg, decide_true, if_true]
    omega
  · simp only [signed, hneg, decide_false, Bool.false_eq_true, if_false]
    omega

/-- The sign of a product of signed numbers. -/
theorem signed_mul_signed (neg neg' : Bool) (x y : Int) :
    signed neg x * signed neg' y = signed (neg != neg') (x * y) := by
  cases neg <;> cases neg' <;> simp [signed]

theorem roundedOnce_fadd (nan : F32) {a b : F32} (ha : isFinite a = true) (hb : isFinite b = true)
    (hne : units a + units b ≠ 0) : RoundedOnce (fadd nan a b) (units a + units b) 1 := by
  rw [fadd_of_isFinite ha hb, if_neg hne]
  have hround := roundedOnce_roundUnits (decide (units a + units b < 0)) (units a + units b).natAbs Nat.one_pos
  rwa [signed_natAbs] at hround

theorem fadd_of_sum_zero (nan : F32) {a b : F32} (ha : isFinite a = true) (hb : isFinite b = true)
    (hsum : units a + units b = 0) : fadd nan a b = if signOf a && signOf b then 0x80000000#32 else 0#32 := by
  rw [fadd_of_isFinite ha hb, if_pos hsum]
  cases signOf a && signOf b <;> rfl

/-- Settles O47: a difference is the sum with the negation. -/
theorem additionRoundsOnce : Obligations.AdditionRoundsOnce := by
  intro nan a b ha hb
  have hb' : isFinite (fneg b) = true := (isFinite_fneg b).trans hb
  have hdiff : units a - units b = units a + units (fneg b) := by rw [units_fneg, Int.sub_eq_add_neg]
  rw [hdiff, ← signOf_fneg b]
  exact ⟨roundedOnce_fadd nan ha hb, fadd_of_sum_zero nan ha hb, roundedOnce_fadd nan ha hb',
    fadd_of_sum_zero nan ha hb'⟩

/-- Settles O48: the product of the magnitudes, with the sign of the product. -/
theorem multiplicationRoundsOnce : Obligations.MultiplicationRoundsOnce := by
  intro nan a b ha hb
  rw [fmul_of_isFinite ha hb, units_eq_signed a, units_eq_signed b, signed_mul_signed]
  exact ⟨roundedOnce_roundUnits _ _ (Nat.two_pow_pos 149), signOf_roundUnits _ _ _⟩

theorem unitsMag_pos_of_not_isZero {a : F32} (h : isZero a = false) : 0 < unitsMag a := by
  refine (unitsMag_pos_iff a).2 (Nat.pos_of_ne_zero fun h0 => ?_)
  rw [fabs_toNat] at h0
  have hexp : expOf a = 0 := by omega
  have hfrac : fracOf a = 0 := by omega
  simp [isZero, hexp, hfrac] at h

/-- Settles O49: the quotient of the magnitudes, with the sign of the divisor moved to the dividend. -/
theorem divisionRoundsOnce : Obligations.DivisionRoundsOnce := by
  intro nan a b ha hb hz
  rw [fdiv_of_isFinite ha hb hz]
  have hnum : units a * 2 ^ 149 = signed (signOf b) (signed (signOf a != signOf b) (unitsMag a * 2 ^ 149 : Nat)) := by
    rw [units_eq_signed a]
    cases signOf a <;> cases signOf b <;> simp [signed]
  rw [hnum, units_eq_signed b, roundedOnce_signed]
  exact ⟨roundedOnce_roundUnits _ _ (unitsMag_pos_of_not_isZero hz), signOf_roundUnits _ _ _⟩

end Sys2Proof.Machine

/-!
PROOF. The frame of every operation (`10_state.md` R10, R22, R23, R38; `60_exceptions.md` R199): what no operation writes,
the one slot a `FRAME` may write, the one axis an operation of the H port may write, and that a read writes neither.
-/

namespace Sys2Proof.Machine

/-! ### What no operation writes (R6, R38) -/

/-- The parameters, the two ports, the count of operations and the sizes of the register files are the same. -/
structure SameShape (s t : State) : Prop where
  idWidth : t.idWidth = s.idWidth
  idBase : t.idBase = s.idBase
  tPort : t.tPort = s.tPort
  hPort : t.hPort = s.hPort
  opCount : t.opCount = s.opCount
  slots : t.ms.length = s.ms.length
  axes : t.pid.length = s.pid.length

theorem SameShape.refl (s : State) : SameShape s s := ⟨rfl, rfl, rfl, rfl, rfl, rfl, rfl⟩

theorem SameShape.setSlot (s : State) (n : Nat) (m : MotorState) : SameShape s (s.setSlot n m) :=
  ⟨rfl, rfl, rfl, rfl, rfl, List.length_set, rfl⟩

theorem AnsweredAt.sameShape {k : Option Nat} {s t : State} (h : AnsweredAt k s t) : SameShape s t := by
  obtain ⟨_, _, rfl, haxes, -⟩ := h.rest
  exact ⟨rfl, rfl, rfl, rfl, rfl, rfl, haxes⟩

theorem execFrame_sameShape {id : Nat} {a cv g : Half} {hall : Byte} {s t : State}
    (h : execFrame id a cv g hall s = .next t) : SameShape s t := by
  rcases execFrame_cases id a cv g hall s with ⟨hdrop, -⟩ | ⟨n, m, -, -, hwrite⟩
  · cases hdrop.symm.trans h
    exact .refl s
  · cases hwrite.symm.trans h
    exact .setSlot s n _

theorem exec_sameShape {i : Instr} {s t : State} (h : exec i s = .next t) : SameShape s t := by
  cases i with
  | frame => exact execFrame_sameShape h
  | _ => exact (exec_answeredAt rfl h).sameShape

/-! ### What an operation writes at most (R22, R23, R199) -/

/-- A `FRAME` writes at most the slot of its identifier, and no controller. -/
theorem execFrame_writes {id : Nat} {a cv g : Half} {hall : Byte} {s t : State}
    (h : execFrame id a cv g hall s = .next t) :
    t.pid = s.pid ∧ ∀ n, id ≠ s.idBase + n → t.ms[n]? = s.ms[n]? := by
  rcases execFrame_cases id a cv g hall s with ⟨hdrop, -⟩ | ⟨k, m, rfl, -, hwrite⟩
  · cases hdrop.symm.trans h
    exact ⟨rfl, fun _ _ => rfl⟩
  · cases hwrite.symm.trans h
    exact ⟨rfl, fun n hn => List.getElem?_set_ne fun hkn => hn (congrArg (s.idBase + ·) hkn)⟩

theorem AnsweredAt.writes {k : Option Nat} {s t : State} (h : AnsweredAt k s t) :
    t.ms = s.ms ∧ (∃ answer, t.responses = s.responses ++ [answer]) ∧ ∀ n, k ≠ some n → t.pid[n]? = s.pid[n]? := by
  obtain ⟨_, answer, rfl, -, hother⟩ := h.rest
  exact ⟨rfl, ⟨answer, rfl⟩, hother⟩

/-- A read leaves an answer and nothing else. -/
theorem AnswersFromRegisters.pid_eq {i : Instr} (hi : AnswersFromRegisters i) {s t : State} (h : exec i s = .next t) :
    t.pid = s.pid := by
  obtain ⟨answer, hexec⟩ := hi s
  cases (hexec s rfl rfl).symm.trans h
  rfl

/-- Settles O41: a `FRAME` is dropped or writes its slot, an operation of the H port answers once and writes at most the
axis it names, and the two reads answer only. -/
theorem operationsWriteOnlyTheirOwnRecord : Obligations.OperationsWriteOnlyTheirOwnRecord := by
  intro s t i h
  obtain ⟨hwidth, hbase, htPort, hhPort, hcount, hslots, haxes⟩ := exec_sameShape h
  refine ⟨hwidth, hbase, htPort, hhPort, hcount, hslots, haxes, ?_, ?_⟩
  · cases i with
    | frame =>
      obtain ⟨hpid, hother⟩ := execFrame_writes h
      obtain ⟨-, -, hanswers⟩ := execFrame_ports h
      exact ⟨hpid, hanswers, hother⟩
    | _ => exact (exec_answeredAt rfl h).writes
  · cases i with
    | pidRd idx sub => exact (pidRd_answersFromRegisters idx sub).pid_eq h
    | msRd idx => exact (msRd_answersFromRegisters idx).pid_eq h
    | _ => trivial

end Sys2Proof.Machine

/-!
PROOF. The clock edge with `rst = 1` (`70_reset_and_hazards.md` R210, R211): the sizes of the register files are parameters,
so the records of reset fill files of the same lengths.
-/

namespace Sys2Proof.Machine

/-! ### The parameters after reset (R6, R210) -/

/-- The parameters can be read back from the state after reset: two of them are lengths of register files. -/
theorem State.params_resetWith (q : Params) : (State.resetWith q).params = q := by
  simp [State.params, State.resetWith]

/-- The clock edge is a reset at the parameters the state carries. -/
theorem State.rstEdge_params (s : State) : s.rstEdge.params = s.params :=
  State.params_resetWith s.params

/-- Settles O11: each register file is filled again with the reset record at its own length, so the parameters stay and
only the ports are emptied. -/
theorem rstEdgeResetsEveryRegister : Obligations.RstEdgeResetsEveryRegister := fun s =>
  ⟨s.rstEdge_ms, s.rstEdge_pid, s.rstEdge_tPort, s.rstEdge_hPort, s.rstEdge_responses, s.rstEdge_params⟩

end Sys2Proof.Machine
